-- ==== Sys2Proof/Word.lean ====
section
/-! DEFINITION. The word types of the machine (00_scope.md R8, R10, R11) and the one bound every register access needs. -/

namespace Sys2Proof

/-- One byte of memory, one V register, a timer, an 8-bit immediate NN (R8). -/
abbrev Byte := BitVec 8

/-- A 16-bit value: an instruction word, PC, I, a stack entry (R8, R80). -/
abbrev Word := BitVec 16

/-- A 4-bit field of an instruction word: a register selector X or Y, or the immediate N (R81, R83). -/
abbrev Nibble := BitVec 4

/-- A 12-bit value: the field NNN, and the address of a byte of MEM, 0..4095 (R60, R81). -/
abbrev Addr := BitVec 12

/-- "A selector cannot be out of range" (R83): four bits name sixteen registers. -/
theorem nibble_lt_sixteen (x : Nibble) : x.toNat < 16 := x.isLt

end Sys2Proof
end

