-- ==== Sys2Proof/Syntax.lean ====
section
/-! DEFINITION. The instructions: one constructor per row of spec/opcode_table.json (30_encoding.md R87),
with the fields of R81. A nibble that an instruction carries and ignores is kept as a field, so that
an instruction says its whole word (notes/assumptions/9.md). -/

namespace Sys2Proof

/-- The 35 instructions of R87, in its order. -/
inductive Instr where
  /-- 0XE0, CLS; X is not examined (R85). -/
  | cls (x : Nibble)
  /-- 0XEE, RET; X is not examined (R85). -/
  | ret (x : Nibble)
  /-- 0NNN with low byte neither E0 nor EE, SYS. -/
  | sys (nnn : Addr)
  /-- 1NNN, JP NNN. -/
  | jp (nnn : Addr)
  /-- 2NNN, CALL NNN. -/
  | call (nnn : Addr)
  /-- 3XNN, SE Vx, NN. -/
  | seImm (x : Nibble) (nn : Byte)
  /-- 4XNN, SNE Vx, NN. -/
  | sneImm (x : Nibble) (nn : Byte)
  /-- 5XYn, SE Vx, Vy; n is ignored unless P_STRICT_5_9 (R86). -/
  | seReg (x y n : Nibble)
  /-- 6XNN, LD Vx, NN. -/
  | ldImm (x : Nibble) (nn : Byte)
  /-- 7XNN, ADD Vx, NN. -/
  | addImm (x : Nibble) (nn : Byte)
  /-- 8XY0, LD Vx, Vy. -/
  | ldReg (x y : Nibble)
  /-- 8XY1, OR Vx, Vy. -/
  | orReg (x y : Nibble)
  /-- 8XY2, AND Vx, Vy. -/
  | andReg (x y : Nibble)
  /-- 8XY3, XOR Vx, Vy. -/
  | xorReg (x y : Nibble)
  /-- 8XY4, ADD Vx, Vy. -/
  | addReg (x y : Nibble)
  /-- 8XY5, SUB Vx, Vy. -/
  | sub (x y : Nibble)
  /-- 8XY6, SHR Vx (, Vy). -/
  | shr (x y : Nibble)
  /-- 8XY7, SUBN Vx, Vy. -/
  | subn (x y : Nibble)
  /-- 8XYE, SHL Vx (, Vy). -/
  | shl (x y : Nibble)
  /-- 9XYn, SNE Vx, Vy; n is ignored unless P_STRICT_5_9 (R86). -/
  | sneReg (x y n : Nibble)
  /-- ANNN, LD I, NNN. -/
  | ldI (nnn : Addr)
  /-- BNNN, JP V0, NNN. -/
  | jpV0 (nnn : Addr)
  /-- CXNN, RND Vx, NN. -/
  | rnd (x : Nibble) (nn : Byte)
  /-- DXYN, DRW Vx, Vy, N. -/
  | drw (x y n : Nibble)
  /-- EX9E, SKP Vx. -/
  | skp (x : Nibble)
  /-- EXA1, SKNP Vx. -/
  | sknp (x : Nibble)
  /-- FX07, LD Vx, DT. -/
  | ldVxDt (x : Nibble)
  /-- FX0A, LD Vx, K. -/
  | ldVxK (x : Nibble)
  /-- FX15, LD DT, Vx. -/
  | ldDtVx (x : Nibble)
  /-- FX18, LD ST, Vx. -/
  | ldStVx (x : Nibble)
  /-- FX1E, ADD I, Vx. -/
  | addI (x : Nibble)
  /-- FX29, LD F, Vx. -/
  | ldF (x : Nibble)
  /-- FX33, LD B, Vx. -/
  | ldB (x : Nibble)
  /-- FX55, LD [I], Vx. -/
  | stRegs (x : Nibble)
  /-- FX65, LD Vx, [I]. -/
  | ldRegs (x : Nibble)
  deriving DecidableEq, Repr

/-- The two instructions that write FB, for which FB_WE is 1 (10_state.md R52). -/
def Instr.writesDisplay : Instr → Bool
  | .cls _ | .drw _ _ _ => true
  | .ret _ | .sys _ | .jp _ | .call _ | .seImm _ _ | .sneImm _ _ | .seReg _ _ _ | .ldImm _ _
  | .addImm _ _ | .ldReg _ _ | .orReg _ _ | .andReg _ _ | .xorReg _ _ | .addReg _ _ | .sub _ _
  | .shr _ _ | .subn _ _ | .shl _ _ | .sneReg _ _ _ | .ldI _ | .jpV0 _ | .rnd _ _ | .skp _
  | .sknp _ | .ldVxDt _ | .ldVxK _ | .ldDtVx _ | .ldStVx _ | .addI _ | .ldF _ | .ldB _
  | .stRegs _ | .ldRegs _ => false

end Sys2Proof
end

