-- ==== Sys2Proof/WellFormed.lean ====
section
/-! DEFINITION. Which instructions a word can stand for. The fields' widths are in their types; two
checks remain, those of 30_encoding.md R85 and R86. -/

namespace Sys2Proof

/-- R85: a family-0 word whose low byte is E0 or EE is CLS or RET, never SYS. -/
def sysLowByteFree (nnn : Addr) : Bool :=
  nnn.extractLsb' 0 8 != 0xE0#8 && nnn.extractLsb' 0 8 != 0xEE#8

/-- R86: under P_STRICT_5_9 only n = 0 decodes in families 5 and 9. -/
def strictNibbleZero (strict59 : Bool) (n : Nibble) : Bool :=
  !strict59 || n == 0#4

/-- An instruction that some word decodes to, under P_STRICT_5_9 = `strict59`. -/
def Instr.wf (strict59 : Bool) : Instr → Bool
  | .sys nnn => sysLowByteFree nnn
  | .seReg _ _ n | .sneReg _ _ n => strictNibbleZero strict59 n
  | .cls _ | .ret _ | .jp _ | .call _ | .seImm _ _ | .sneImm _ _ | .ldImm _ _ | .addImm _ _
  | .ldReg _ _ | .orReg _ _ | .andReg _ _ | .xorReg _ _ | .addReg _ _ | .sub _ _ | .shr _ _
  | .subn _ _ | .shl _ _ | .ldI _ | .jpV0 _ | .rnd _ _ | .drw _ _ _ | .skp _ | .sknp _
  | .ldVxDt _ | .ldVxK _ | .ldDtVx _ | .ldStVx _ | .addI _ | .ldF _ | .ldB _ | .stRegs _
  | .ldRegs _ => true

end Sys2Proof
end

