-- ==== Sys2Proof/Decode.lean ====
section
/-! DEFINITION. Decoding (30_encoding.md R80 to R91), and after it the encoder, both from the map of R87. -/

namespace Sys2Proof

/-! ### The fields of R81 -/

/-- F, the family: op[15:12]. -/
def fieldF (op : Word) : Nibble := op.extractLsb' 12 4
/-- X: op[11:8]. -/
def fieldX (op : Word) : Nibble := op.extractLsb' 8 4
/-- Y: op[7:4]. -/
def fieldY (op : Word) : Nibble := op.extractLsb' 4 4
/-- N: op[3:0]. -/
def fieldN (op : Word) : Nibble := op.extractLsb' 0 4
/-- NN: op[7:0]. -/
def fieldNN (op : Word) : Byte := op.extractLsb' 0 8
/-- NNN: op[11:0]. -/
def fieldNNN (op : Word) : Addr := op.extractLsb' 0 12

/-- Why bytes decode to no instruction. -/
inductive DecodeError where
  /-- The word selects no row of R87 (R88). The step runs it as the no-op of R106: not a stop. -/
  | unknownOpcode (op : Word)
  /-- Fewer than the two bytes every instruction has (R80); no fetch meets this. -/
  | tooShort
  deriving DecidableEq, Repr

/-! ### The second level of dispatch (R84) -/

/-- Family 0, on the low byte alone (R85). -/
def decodeFamily0 (op : Word) : Instr :=
  if fieldNN op = 0xE0#8 then .cls (fieldX op)
  else if fieldNN op = 0xEE#8 then .ret (fieldX op)
  else .sys (fieldNNN op)

/-- Families 5 and 9: every n, or only n = 0 under P_STRICT_5_9 (R86). -/
def decodeSkipReg (strict59 : Bool) (op : Word) (i : Instr) : Except DecodeError Instr :=
  if strict59 = true ∧ fieldN op ≠ 0x0#4 then .error (.unknownOpcode op) else .ok i

/-- Family 8, on the low four bits (R87 rows 11 to 19). -/
def decodeFamily8 (op : Word) : Except DecodeError Instr :=
  if fieldN op = 0x0#4 then .ok (.ldReg (fieldX op) (fieldY op))
  else if fieldN op = 0x1#4 then .ok (.orReg (fieldX op) (fieldY op))
  else if fieldN op = 0x2#4 then .ok (.andReg (fieldX op) (fieldY op))
  else if fieldN op = 0x3#4 then .ok (.xorReg (fieldX op) (fieldY op))
  else if fieldN op = 0x4#4 then .ok (.addReg (fieldX op) (fieldY op))
  else if fieldN op = 0x5#4 then .ok (.sub (fieldX op) (fieldY op))
  else if fieldN op = 0x6#4 then .ok (.shr (fieldX op) (fieldY op))
  else if fieldN op = 0x7#4 then .ok (.subn (fieldX op) (fieldY op))
  else if fieldN op = 0xE#4 then .ok (.shl (fieldX op) (fieldY op))
  else .error (.unknownOpcode op)

/-- Family E, on the low byte (R87 rows 25 and 26). -/
def decodeFamilyE (op : Word) : Except DecodeError Instr :=
  if fieldNN op = 0x9E#8 then .ok (.skp (fieldX op))
  else if fieldNN op = 0xA1#8 then .ok (.sknp (fieldX op))
  else .error (.unknownOpcode op)

/-- Family F, on the low byte (R87 rows 27 to 35). -/
def decodeFamilyF (op : Word) : Except DecodeError Instr :=
  if fieldNN op = 0x07#8 then .ok (.ldVxDt (fieldX op))
  else if fieldNN op = 0x0A#8 then .ok (.ldVxK (fieldX op))
  else if fieldNN op = 0x15#8 then .ok (.ldDtVx (fieldX op))
  else if fieldNN op = 0x18#8 then .ok (.ldStVx (fieldX op))
  else if fieldNN op = 0x1E#8 then .ok (.addI (fieldX op))
  else if fieldNN op = 0x29#8 then .ok (.ldF (fieldX op))
  else if fieldNN op = 0x33#8 then .ok (.ldB (fieldX op))
  else if fieldNN op = 0x55#8 then .ok (.stRegs (fieldX op))
  else if fieldNN op = 0x65#8 then .ok (.ldRegs (fieldX op))
  else .error (.unknownOpcode op)

/-- R91: "Decode(op) returns exactly one of the 35 instructions of rule R87 with its fields, or
UNKNOWN"; it depends on op and P_STRICT_5_9 only. The first level is the family (R84). -/
def decodeWord (strict59 : Bool) (op : Word) : Except DecodeError Instr :=
  match (fieldF op).toNat with
  | 0 => .ok (decodeFamily0 op)
  | 1 => .ok (.jp (fieldNNN op))
  | 2 => .ok (.call (fieldNNN op))
  | 3 => .ok (.seImm (fieldX op) (fieldNN op))
  | 4 => .ok (.sneImm (fieldX op) (fieldNN op))
  | 5 => decodeSkipReg strict59 op (.seReg (fieldX op) (fieldY op) (fieldN op))
  | 6 => .ok (.ldImm (fieldX op) (fieldNN op))
  | 7 => .ok (.addImm (fieldX op) (fieldNN op))
  | 8 => decodeFamily8 op
  | 9 => decodeSkipReg strict59 op (.sneReg (fieldX op) (fieldY op) (fieldN op))
  | 10 => .ok (.ldI (fieldNNN op))
  | 11 => .ok (.jpV0 (fieldNNN op))
  | 12 => .ok (.rnd (fieldX op) (fieldNN op))
  | 13 => .ok (.drw (fieldX op) (fieldY op) (fieldN op))
  | 14 => decodeFamilyE op
  | _ => decodeFamilyF op

/-- The word of two bytes, the one at the lower address high (20_memory.md R65). -/
def bigEndian (hi lo : Byte) : Word := hi ++ lo

/-- The bytes from an instruction's first on: the instruction, and the bytes after its two (R80). -/
def decodeBytes (strict59 : Bool) : List Byte → Except DecodeError (Instr × List Byte)
  | hi :: lo :: rest =>
    match decodeWord strict59 (bigEndian hi lo) with
    | .ok i => .ok (i, rest)
    | .error e => .error e
  | [_] => .error .tooShort
  | [] => .error .tooShort

/-- The bytes, in the order the hardware stores them, of the instruction whose `nbits` bits are `w`
(bits above `nbits` are 0; an instruction is one word, so bits above 15 are not part of it). -/
def tableBytes (nbits w : Nat) : List Byte :=
  let op := BitVec.ofNat 16 (w % 2 ^ nbits)
  [op.extractLsb' 8 8, op.extractLsb' 0 8]

/-- The instruction the decoder reads from a word of spec/opcode_table.json, at the spec's value of
P_STRICT_5_9 (false, R9). -/
def decodeTableWord (nbits w : Nat) : Option Instr :=
  match decodeBytes false (tableBytes nbits w) with
  | .ok (i, _) => some i
  | .error _ => none

/-! ### The encoder, from the formats of R81 and the map of R87 -/

/-- F X Y N. -/
def formRegReg (f x y n : Nibble) : Word := f ++ x ++ y ++ n
/-- F X NN; also F X sub8. -/
def formRegImm (f x : Nibble) (nn : Byte) : Word := f ++ x ++ nn
/-- F NNN. -/
def formAddr (f : Nibble) (nnn : Addr) : Word := f ++ nnn

/-- The word of an instruction. -/
def encode : Instr → Word
  | .cls x => formRegImm 0x0#4 x 0xE0#8
  | .ret x => formRegImm 0x0#4 x 0xEE#8
  | .sys nnn => formAddr 0x0#4 nnn
  | .jp nnn => formAddr 0x1#4 nnn
  | .call nnn => formAddr 0x2#4 nnn
  | .seImm x nn => formRegImm 0x3#4 x nn
  | .sneImm x nn => formRegImm 0x4#4 x nn
  | .seReg x y n => formRegReg 0x5#4 x y n
  | .ldImm x nn => formRegImm 0x6#4 x nn
  | .addImm x nn => formRegImm 0x7#4 x nn
  | .ldReg x y => formRegReg 0x8#4 x y 0x0#4
  | .orReg x y => formRegReg 0x8#4 x y 0x1#4
  | .andReg x y => formRegReg 0x8#4 x y 0x2#4
  | .xorReg x y => formRegReg 0x8#4 x y 0x3#4
  | .addReg x y => formRegReg 0x8#4 x y 0x4#4
  | .sub x y => formRegReg 0x8#4 x y 0x5#4
  | .shr x y => formRegReg 0x8#4 x y 0x6#4
  | .subn x y => formRegReg 0x8#4 x y 0x7#4
  | .shl x y => formRegReg 0x8#4 x y 0xE#4
  | .sneReg x y n => formRegReg 0x9#4 x y n
  | .ldI nnn => formAddr 0xA#4 nnn
  | .jpV0 nnn => formAddr 0xB#4 nnn
  | .rnd x nn => formRegImm 0xC#4 x nn
  | .drw x y n => formRegReg 0xD#4 x y n
  | .skp x => formRegImm 0xE#4 x 0x9E#8
  | .sknp x => formRegImm 0xE#4 x 0xA1#8
  | .ldVxDt x => formRegImm 0xF#4 x 0x07#8
  | .ldVxK x => formRegImm 0xF#4 x 0x0A#8
  | .ldDtVx x => formRegImm 0xF#4 x 0x15#8
  | .ldStVx x => formRegImm 0xF#4 x 0x18#8
  | .addI x => formRegImm 0xF#4 x 0x1E#8
  | .ldF x => formRegImm 0xF#4 x 0x29#8
  | .ldB x => formRegImm 0xF#4 x 0x33#8
  | .stRegs x => formRegImm 0xF#4 x 0x55#8
  | .ldRegs x => formRegImm 0xF#4 x 0x65#8

/-- The two bytes of an instruction, in memory order (R65). -/
def encodeBytes (i : Instr) : List Byte :=
  [(encode i).extractLsb' 8 8, (encode i).extractLsb' 0 8]

end Sys2Proof
end

