-- ==== Sys2Proof/Config.lean ====
section
/-! DEFINITION. What an implementation fixes: the parameters of 00_scope.md R9 (with two more that
93_implementation_defined.md calls parameters), and the free values. The values the spec's rules are
written at stand in Machine/Defaults.lean. -/

namespace Sys2Proof

/-- P_JUMP_REG (R9, R138): the register whose value BNNN adds to NNN. -/
inductive JumpReg where
  | v0
  | vx
  deriving DecidableEq, Repr

/-- P_SHIFT_SRC (R9, R150, R152): the operand of 8XY6 and 8XYE. -/
inductive ShiftSrc where
  | vx
  | vy
  deriving DecidableEq, Repr

/-- P_LOGIC_VF (R9, R145 to R147): what 8XY1, 8XY2 and 8XY3 do to VF. -/
inductive LogicVF where
  | unchanged
  | cleared
  deriving DecidableEq, Repr

/-- P_OOB (R9; 93 U1, U4) and its like for a key number (93 U5): a value out of range is masked and
reported, or the model faults. -/
inductive RangePolicy where
  | mask
  | fault
  deriving DecidableEq, Repr

/-- 93 U15: the digit FX29 takes from V[X], its low nibble or the whole byte. -/
inductive FontDigit where
  | lowNibble
  | wholeByte
  deriving DecidableEq, Repr

/-- The parameters of one implementation. "A model may take each as an argument" (R9): the argument
travels in State, and no instruction and no host event changes it (notes/assumptions/3.md). -/
structure Config where
  /-- P_JUMP_REG. -/
  jumpReg : JumpReg
  /-- P_SUB_EQ_FLAG: VF of 8XY5 and 8XY7 when the operands are equal, 1 (true) or 0 (false). -/
  subEqFlag : Bool
  /-- P_SHIFT_SRC. -/
  shiftSrc : ShiftSrc
  /-- P_LOGIC_VF. -/
  logicVF : LogicVF
  /-- P_STRICT_5_9: 5XYn and 9XYn decode only for n = 0. -/
  strict59 : Bool
  /-- P_LDST_INC_I: FX55 and FX65 advance I. -/
  ldstIncI : Bool
  /-- P_OOB: an I-relative address, or the PC, beyond the 4096 bytes. -/
  oob : RangePolicy
  /-- 93 U5: a key number above 0x0F in EX9E and EXA1 (notes/assumptions/4.md). -/
  keyOob : RangePolicy
  /-- 93 U15: the digit of FX29 (notes/assumptions/4.md). -/
  fontDigit : FontDigit
  /-- The toggle of the optional Trace event (R100, R260; notes/assumptions/8.md). -/
  trace : Bool
  /-- FONT: the 80 bytes at addresses 0..79 after INIT (R64). -/
  font : Vector Byte 80
  deriving DecidableEq, Repr

/-- FREE VALUE (R14, R49, R160; 93 U8): the byte on the random input at the n-th draw. It has no body:
nothing in Lean can evaluate it, so whatever is proved holds for every byte the host may supply. -/
opaque Config.rndByte : Nat → Byte

end Sys2Proof
end

