-- ==== Sys2Proof/Machine/Defaults.lean ====
section
/-! DEFINITION. The values the spec's rules are written at: the parameters of 00_scope.md R9 and the
font table of 20_memory.md R64. -/

namespace Sys2Proof.Machine

/-- Glyphs 0 to 7 of R64's font table, five bytes each. -/
def fontLow : Vector Byte 40 :=
  #v[0xF0, 0x90, 0x90, 0x90, 0xF0,  0x20, 0x60, 0x20, 0x20, 0x70,
     0xF0, 0x10, 0xF0, 0x80, 0xF0,  0xF0, 0x10, 0xF0, 0x10, 0xF0,
     0x90, 0x90, 0xF0, 0x10, 0x10,  0xF0, 0x80, 0xF0, 0x10, 0xF0,
     0xF0, 0x80, 0xF0, 0x90, 0xF0,  0xF0, 0x10, 0x20, 0x40, 0x40]

/-- Glyphs 8 to F of R64's font table, five bytes each. -/
def fontHigh : Vector Byte 40 :=
  #v[0xF0, 0x90, 0xF0, 0x90, 0xF0,  0xF0, 0x90, 0xF0, 0x10, 0xF0,
     0xF0, 0x90, 0xF0, 0x90, 0x90,  0xE0, 0x90, 0xE0, 0x90, 0xE0,
     0xF0, 0x80, 0x80, 0x80, 0xF0,  0xE0, 0x90, 0x90, 0x90, 0xE0,
     0xF0, 0x80, 0xF0, 0x80, 0xF0,  0xF0, 0x80, 0xF0, 0x80, 0x80]

/-- The default value of FONT (R9, R64): the standard CHIP-8 font (notes/assumptions/14.md). -/
def standardFont : Vector Byte 80 := fontLow ++ fontHigh

/-- The parameters at the spec's values (R9's column "spec's value"). -/
def standardConfig : Config where
  jumpReg := .v0
  subEqFlag := true
  shiftSrc := .vx
  logicVF := .unchanged
  strict59 := false
  ldstIncI := false
  oob := .mask
  keyOob := .mask
  fontDigit := .lowNibble
  trace := true
  font := standardFont

end Sys2Proof.Machine
end

