-- ==== Sys2Proof/Machine/State.lean ====
section
/-! DEFINITION. The state of the block (10_state.md R20 to R35), the reasons a step can stop, and the
state after reset (R40). -/

namespace Sys2Proof.Machine

/-- STATUS (R32). -/
inductive Status where
  /-- 0: STEP executes an instruction and TICK decrements the timers. -/
  | running
  /-- 1: STEP and TICK have no effect. -/
  | paused
  /-- 2: final until INIT. -/
  | halted
  deriving DecidableEq, Repr

/-- FAULT.CAUSE (R33, R231). -/
inductive FaultCause where
  /-- 0. -/
  | none
  /-- 1: CALL with SP = 12. -/
  | stackOverflow
  /-- 2: RET with SP = 0. -/
  | stackUnderflow
  deriving DecidableEq, Repr

/-- FAULT, the fault record (R33). -/
structure FaultRecord where
  /-- FAULT.CAUSE. -/
  cause : FaultCause
  /-- FAULT.PC: the address of the faulting instruction. -/
  pc : Word
  /-- FAULT.OP: the faulting instruction word. -/
  op : Word
  deriving DecidableEq, Repr

/-- The diagnostic events with their info (60_exceptions.md R238). -/
inductive Diag where
  /-- 1, UNKNOWN_OPCODE (a, op). -/
  | unknownOpcode (a op : Word)
  /-- 2, MEM_OOB: the unreduced address e > 4095. -/
  | memOob (e : Nat)
  /-- 3, PC_OOB: a > 0x0FFE. -/
  | pcOob (a : Word)
  /-- 4, KEY_OOB: V[X] > 0x0F. -/
  | keyOob (v : Byte)
  /-- 5, STACK_FAULT (cause, a, op). -/
  | stackFault (cause : FaultCause) (a op : Word)
  deriving DecidableEq, Repr

/-- What a step presents on the block's event outputs: diagnostics (R50) and the trace (R260). -/
inductive Output where
  /-- emit Diag(code, info). -/
  | diag (d : Diag)
  /-- emit Trace(a, op). -/
  | trace (a op : Word)
  deriving DecidableEq, Repr

/-- MEM as the bytes that differ from the contents after INIT of an empty ROM: (address, byte) pairs,
addresses rising (Machine/Ops.lean: Memory.read, Memory.write, Memory.wf). -/
abbrev Memory := List Host.Cell

/-- FB (R29, R190): 32 rows, top to bottom, of 64 pixels, left to right. -/
abbrev Framebuffer := Vector (Vector Bool 64) 32

/-- The state of the block. The last four fields are the model's own (INVENTORY.md, '## State'). -/
structure State where
  /-- MEM (R34). -/
  mem : Memory
  /-- V0..VF (R20); VF is also the flag register (R21). -/
  v : Vector Byte 16
  /-- I (R23). -/
  i : Word
  /-- PC (R24). -/
  pc : Word
  /-- STACK[0..11] (R25). -/
  stack : Vector Word 12
  /-- SP, the number of entries in use, 0..12 (R26; notes/assumptions/11.md). -/
  sp : Fin 13
  /-- DT (R27). -/
  dt : Byte
  /-- ST (R27). -/
  st : Byte
  /-- KEYS, bit k for key k (R28). -/
  keys : Word
  /-- FB (R29). -/
  fb : Framebuffer
  /-- DIRTY (R30). -/
  dirty : Bool
  /-- STATUS (R32). -/
  status : Status
  /-- FAULT (R33). -/
  fault : FaultRecord
  /-- FB_WE of the last executed step (R52; notes/assumptions/7.md). -/
  fbWe : Bool
  /-- The events presented since INIT, oldest first (R50, R260; notes/assumptions/6.md). -/
  events : List Output
  /-- How many bytes of the random input have been taken (R49; notes/assumptions/1.md). -/
  draws : Nat
  /-- The parameters of R9, fixed for the machine (notes/assumptions/3.md). -/
  cfg : Config
  deriving DecidableEq, Repr

/-- Why the model stops. At the spec's parameters no step does (notes/assumptions/5.md). -/
inductive Fault where
  /-- Raised by DXYN, FX33, FX55 and FX65 under P_OOB = fault for an I-relative address e > 4095
  (R9; 93 U4). Safe: the model stops where the alternative's machine halts. -/
  | memOutOfRange (e : Nat)
  /-- Raised by the fetch under P_OOB = fault for a PC a > 0x0FFE (R9; 93 U1). Safe. -/
  | pcOutOfRange (a : Word)
  /-- Raised by EX9E and EXA1 when 93 U5's alternative is chosen, for V[X] > 0x0F. Safe. -/
  | keyOutOfRange (v : Byte)
  deriving DecidableEq, Repr

/-- What has no meaning in the model. -/
inductive Refusal where
  /-- Raised by an arm of exec for an instruction not modelled yet; no arm does. Safe. -/
  | notModelled (mnemonic : String)
  deriving DecidableEq, Repr

/-- R40, for the parameters `cfg` and with `draws` bytes of the random input already taken: every piece
of state after INIT of an empty ROM. -/
def State.resetWith (cfg : Config) (draws : Nat) : State where
  mem := []
  v := Vector.replicate 16 0
  i := 0
  pc := 0x200
  stack := Vector.replicate 12 0
  sp := 0
  dt := 0
  st := 0
  keys := 0
  fb := Vector.replicate 32 (Vector.replicate 64 false)
  dirty := false
  status := .running
  fault := { cause := .none, pc := 0, op := 0 }
  fbWe := false
  events := []
  draws := draws
  cfg := cfg

/-- The machine right after INIT of an empty ROM, at the spec's parameters (R40, R270, R272). -/
def State.reset : State := State.resetWith standardConfig 0

end Sys2Proof.Machine
end

