-- ==== Sys2Proof/Machine/Ops.lean ====
section
/-! DEFINITION. The named operations over memory, registers, stack, display and outputs, and taking a
fault (60_exceptions.md R234), which every meaning is written over. -/

namespace Sys2Proof.Machine

/-! ### Memory (20_memory.md) -/

/-- What an address reads as that nothing has written: the contents after INIT of an empty ROM, FONT at
0..79 and zero elsewhere (R40, R62). -/
def Memory.unlisted (font : Vector Byte 80) (a : Nat) : Byte :=
  if h : a < 80 then font[a] else 0

/-- The byte at an address. -/
def Memory.read (font : Vector Byte 80) : Memory → Nat → Byte
  | [], a => Memory.unlisted font a
  | (b, w) :: m, a => if a = b then w else Memory.read font m a

/-- List `v` at address `a`, in address order. -/
def Memory.put : Memory → Nat → Byte → Memory
  | [], a, v => [(a, v)]
  | (b, w) :: m, a, v =>
    if a < b then (a, v) :: (b, w) :: m
    else if a = b then (a, v) :: m
    else (b, w) :: Memory.put m a v

/-- Take address `a` off the list. -/
def Memory.drop : Memory → Nat → Memory
  | [], _ => []
  | (b, w) :: m, a =>
    if a < b then (b, w) :: m
    else if a = b then m
    else (b, w) :: Memory.drop m a

/-- Write a byte; the value an unlisted address reads as takes the entry off, so that equal memories
are equal lists. -/
def Memory.write (font : Vector Byte 80) (m : Memory) (a : Nat) (v : Byte) : Memory :=
  if v = Memory.unlisted font a then Memory.drop m a else Memory.put m a v

/-- The canonical form from address `lo` up: addresses strictly rising and below 4096, and no entry equal
to what an unlisted address reads as. -/
def Memory.wfFrom (font : Vector Byte 80) : Nat → Memory → Bool
  | _, [] => true
  | lo, (a, v) :: m =>
    decide (lo ≤ a) && decide (a < 4096) && decide (v ≠ Memory.unlisted font a)
      && Memory.wfFrom font (a + 1) m

/-- The canonical form of memory. -/
def Memory.wf (font : Vector Byte 80) (m : Memory) : Bool := Memory.wfFrom font 0 m

/-- The memory of a state has its canonical form. -/
abbrev State.memWf (s : State) : Prop := Memory.wf s.cfg.font s.mem = true

/-- MemRead(a, 1) (R13): every address presented to MEM lies in 0..4095 (R67), as its type says. -/
def State.readByte (s : State) (a : Addr) : Byte := Memory.read s.cfg.font s.mem a.toNat

/-- MemWrite(a, 1, v) (R13). -/
def State.writeByte (s : State) (a : Addr) (b : Byte) : State :=
  { s with mem := Memory.write s.cfg.font s.mem a.toNat b }

/-- Write bytes at consecutive addresses from `a` up. -/
def State.writeBytes (s : State) (a : Nat) : List Byte → State
  | [] => s
  | b :: bs => State.writeBytes (s.writeByte (BitVec.ofNat 12 a) b) (a + 1) bs

/-! ### Registers -/

/-- V[x] (R20). -/
def State.readV (s : State) (x : Nibble) : Byte := s.v[x.toNat]'(nibble_lt_sixteen x)

/-- V[x] <- b (R20). -/
def State.setV (s : State) (x : Nibble) (b : Byte) : State :=
  { s with v := s.v.set x.toNat b (nibble_lt_sixteen x) }

/-- I <- w (R23). -/
def State.setI (s : State) (w : Word) : State := { s with i := w }

/-- PC <- w (R24). -/
def State.setPc (s : State) (w : Word) : State := { s with pc := w }

/-- DT <- b (R27). -/
def State.setDt (s : State) (b : Byte) : State := { s with dt := b }

/-- ST <- b (R27). -/
def State.setSt (s : State) (b : Byte) : State := { s with st := b }

/-- STATUS <- x (R32). -/
def State.setStatus (s : State) (x : Status) : State := { s with status := x }

/-- FAULT <- f (R33). -/
def State.setFault (s : State) (f : FaultRecord) : State := { s with fault := f }

/-- KEYS[k] = 1 (R28). -/
def State.keyDown (s : State) (k : Nibble) : Bool := s.keys.getLsbD k.toNat

/-! ### Call stack (10_state.md R25, R26) -/

/-- STACK[SP] <- w; SP <- SP + 1; requires SP < 12. -/
def State.push (s : State) (w : Word) (h : s.sp.val < 12) : State :=
  { s with stack := s.stack.set s.sp.val w h, sp := ⟨s.sp.val + 1, by omega⟩ }

/-- SP <- SP − 1; PC <- STACK[SP]; requires SP > 0. -/
def State.popToPc (s : State) (h : 0 < s.sp.val) : State :=
  { s with
    sp := ⟨s.sp.val - 1, by omega⟩
    pc := s.stack[s.sp.val - 1]'(by omega) }

/-! ### Framebuffer (44_display.md R190) -/

/-- FB[y][x]; off the screen there is no pixel. -/
def Framebuffer.get (fb : Framebuffer) (x y : Nat) : Bool :=
  if h : y < 32 ∧ x < 64 then (fb[y]'h.1)[x]'h.2 else false

/-- FB[y][x] <- FB[y][x] ^ 1, on the screen. -/
def Framebuffer.flip (fb : Framebuffer) (x y : Nat) : Framebuffer :=
  if h : y < 32 ∧ x < 64 then
    fb.set y ((fb[y]'h.1).set x (!(fb[y]'h.1)[x]'h.2) h.2) h.1
  else fb

/-- Every pixel off. -/
def Framebuffer.blank : Framebuffer := Vector.replicate 32 (Vector.replicate 64 false)

/-- FB[y][x] (R29, R48). -/
def State.pixel (s : State) (x y : Nat) : Bool := Framebuffer.get s.fb x y

/-- The framebuffer write path: FB <- fb, and DIRTY <- 1 (R30, R52). -/
def State.paint (s : State) (fb : Framebuffer) : State := { s with fb := fb, dirty := true }

/-- DIRTY <- b (R30). -/
def State.setDirty (s : State) (b : Bool) : State := { s with dirty := b }

/-- FB_WE <- b (R52). -/
def State.setFbWe (s : State) (b : Bool) : State := { s with fbWe := b }

/-! ### Event outputs and the random input -/

/-- Present events to the host, after those before (R50). It changes nothing else (R239). -/
def State.emit (s : State) (os : List Output) : State := { s with events := s.events ++ os }

/-- emit Diag(d) (R14). -/
def State.report (s : State) (d : Diag) : State := s.emit [.diag d]

/-- draw rnd8 (R14, R49): the byte on the random input now. -/
def State.rnd (s : State) : Byte := Config.rndByte s.draws

/-- One value of the random input has been taken (R49). -/
def State.takeRnd (s : State) : State := { s with draws := s.draws + 1 }

/-! ### Taking a fault -/

/-- The address a of the instruction whose body runs: PC holds (a + 2) mod 65536 there (R15, R103). -/
def State.instrAddr (s : State) : Word := s.pc - 2

/-- `raise Fault(cause)` in the body of the instruction whose word is op (60_exceptions.md R234). Nothing
returns from it (R235). -/
def State.raiseFault (s : State) (cause : FaultCause) (op : Word) : State :=
  ((((s.setPc s.instrAddr).setFault { cause := cause, pc := s.instrAddr, op := op }).setStatus
    .halted).report (.stackFault cause s.instrAddr op))

end Sys2Proof.Machine
end

