-- ==== Sys2Proof/Machine/Flags.lean ====
section
/-! DEFINITION. Every flag computation of the ISA (10_state.md R21; 42_alu.md R141, R148 to R153). All values
are unsigned (R11). -/

namespace Sys2Proof.Machine

/-- A flag as the byte VF holds. -/
def flagByte (b : Bool) : Byte := if b then 1 else 0

/-- Carry out of bit 7: the 9-bit sum exceeds 255 (R148). -/
def carryFlag (a b : Byte) : Byte := flagByte (decide (a.toNat + b.toNat > 255))

/-- No-borrow of minuend − subtrahend; at equal operands P_SUB_EQ_FLAG (R149, R151; 90 C2). -/
def noBorrowFlag (subEqFlag : Bool) (minuend subtrahend : Byte) : Byte :=
  flagByte (if minuend.toNat > subtrahend.toNat then true
    else if minuend = subtrahend then subEqFlag else false)

/-- The bit shifted out of the low end, s[0] (R150). -/
def shiftedOutLow (s : Byte) : Byte := flagByte (s.getLsbD 0)

/-- The bit shifted out of the high end, s[7] (R152). -/
def shiftedOutHigh (s : Byte) : Byte := flagByte (s.getLsbD 7)

/-- R141: the result is written first and then the flag, so that with X = F the flag stays. -/
def State.setResultFlag (s : State) (x : Nibble) (result flag : Byte) : State :=
  (s.setV x result).setV 0xF#4 flag

/-- A logic operation's writes: the result, and then VF <- 0 if P_LOGIC_VF says so (R145 to R147). -/
def State.setLogicResult (s : State) (x : Nibble) (result : Byte) : State :=
  match s.cfg.logicVF with
  | .unchanged => s.setV x result
  | .cleared => s.setResultFlag x result 0

end Sys2Proof.Machine
end

