-- ==== Sys2Proof/Machine/Operands.lean ====
section
/-! DEFINITION. Every operand form: shift sources, the jump offset, I-relative addresses (00_scope.md R13),
key numbers (45_keypad_timers.md R210), font digits (43_index_memory.md R175), and the skip (41 R127). -/

namespace Sys2Proof.Machine

/-- The operand of 8XY6 and 8XYE: V[X], or V[Y] under P_SHIFT_SRC = VY (R150, R152). -/
def State.shiftSource (s : State) (x y : Nibble) : Byte :=
  match s.cfg.shiftSrc with
  | .vx => s.readV x
  | .vy => s.readV y

/-- The register BNNN adds: V0, or V[X] with X = op[11:8] under P_JUMP_REG = VX (R138). -/
def State.jumpOffset (s : State) (nnn : Addr) : Byte :=
  match s.cfg.jumpReg with
  | .v0 => s.readV 0x0#4
  | .vx => s.readV (nnn.extractLsb' 8 4)

/-- EA(e): e reduced mod 4096 (R13). -/
def ea (e : Nat) : Addr := BitVec.ofNat 12 e

/-- The I-relative address I + k, before EA: an unbounded integer (R13). -/
def State.iRel (s : State) (k : Nat) : Nat := s.i.toNat + k

/-- The unreduced addresses I + 0 .. I + (n − 1), ascending. -/
def State.iRange (s : State) (n : Nat) : List Nat := (List.range n).map s.iRel

/-- The MEM_OOB events of accesses to the unreduced addresses `es`, in their order (R13, R233). -/
def oobReports (es : List Nat) : List Output :=
  (es.filter (fun e => decide (4095 < e))).map (fun e => Output.diag (.memOob e))

/-- The address check of every access an instruction makes through I, and then its effect `k`. P_OOB =
mask: each address above 4095 is reported, and `k` reduces it with `ea`; P_OOB = fault: the first such
address stops the model (R9, R13; 93 U4). A report changes no value (R239), so the reports stand before
the effect (notes/assumptions/15.md). -/
def State.access (s : State) (es : List Nat) (k : State → State) :
    Host.Outcome State Fault Refusal :=
  match s.cfg.oob with
  | .mask => .next (k (s.emit (oobReports es)))
  | .fault =>
    match es.find? (fun e => decide (4095 < e)) with
    | some e => .fault (.memOutOfRange e)
    | none => .next (k s)

/-- Skip(c) (R127): PC is already a + 2. -/
def State.skipIf (s : State) (c : Bool) : State := if c then s.setPc (s.pc + 2) else s

/-- KeyIndex(v): the low nibble, with a report when v > 0x0F (R210), and then the effect `k` of the key
number; under 93 U5's alternative the model stops instead. -/
def State.withKeyIndex (s : State) (v : Byte) (k : Nibble → State → State) :
    Host.Outcome State Fault Refusal :=
  if v.toNat ≤ 0x0F then .next (k (v.extractLsb' 0 4) s)
  else
    match s.cfg.keyOob with
    | .mask => .next (k (v.extractLsb' 0 4) (s.report (.keyOob v)))
    | .fault => .fault (.keyOutOfRange v)

/-- min over the pressed keys (R213): none when no key is pressed. -/
def State.lowestKey (s : State) : Option Nat := (List.range 16).find? (fun k => s.keys.getLsbD k)

/-- The digit of FX29 (R175; 93 U15). -/
def State.fontDigit (s : State) (x : Nibble) : Nat :=
  match s.cfg.fontDigit with
  | .lowNibble => ((s.readV x).extractLsb' 0 4).toNat
  | .wholeByte => (s.readV x).toNat

/-- What FX55 and FX65 do to I: nothing, or I + X + 1 under P_LDST_INC_I (R181, R184). -/
def State.advanceI (s : State) (x : Nibble) : State :=
  if s.cfg.ldstIncI then s.setI (s.i + BitVec.ofNat 16 (x.toNat + 1)) else s

end Sys2Proof.Machine
end

