-- ==== Sys2Proof/Machine/Cycle.lean ====
section
/-! DEFINITION. What a step does around the body of an instruction (40_cycle.md R100 to R106): the fetch,
the advance of PC, the unknown word, and the end of the step. Step.lean puts them together. -/

namespace Sys2Proof.Machine

/-- A fetch address, reduced mod 4096 (R67, R102). -/
def fetchAddr (a : Word) : Addr := BitVec.ofNat 12 a.toNat

/-- The word at PC: hi from a mod 4096, lo from (a + 1) mod 4096, big-endian (R65, R102). -/
def State.fetchWord (s : State) : Word :=
  bigEndian (s.readByte (fetchAddr s.pc)) (s.readByte (fetchAddr s.pc + 1))

/-- A byte of the word lies at or beyond 4096: a > 0x0FFE (R102). -/
def State.pcBeyond (s : State) : Bool := decide (0x0FFE < s.pc.toNat)

/-- The event of the fetch: PC_OOB when a > 0x0FFE (R102). -/
def State.fetchReports (s : State) : List Output := if s.pcBeyond then [.diag (.pcOob s.pc)] else []

/-- Fetch(a) (R102): the word, and the state with the fetch's event presented; under P_OOB = fault a PC
beyond stops the model instead (R9; 93 U1). -/
def State.fetch (s : State) : Except Fault (Word × State) :=
  match s.pcBeyond, s.cfg.oob with
  | true, .fault => .error (.pcOutOfRange s.pc)
  | _, _ => .ok (s.fetchWord, s.emit s.fetchReports)

/-- PC <- (a + 2) mod 65536 (R103). -/
def State.advance (s : State) : State := s.setPc (s.pc + 2)

/-- The end of a step that ran the word op at a (R100): FB_WE is 1 for CLS and DRW and 0 for every other
step, then Trace(a, op). A fault ends the step before them, with FB_WE 0 (R107; notes/assumptions/8.md). -/
def State.endStep (t : State) (a op : Word) (display : Bool) : State :=
  match t.status with
  | .running =>
    if t.cfg.trace then (t.setFbWe display).emit [.trace a op] else t.setFbWe display
  | .paused => t.setFbWe false
  | .halted => t.setFbWe false

/-- The step's outcome from that of the body. -/
def retire (a op : Word) (display : Bool) (o : Host.Outcome State Fault Refusal) :
    Host.Outcome State Fault Refusal :=
  match o with
  | .next t => .next (t.endStep a op display)
  | .fault f => .fault f
  | .refused r => .refused r

/-- Store a two-byte instruction, given as its bytes in memory order, where the next fetch reads. -/
def State.placeAtPc (s : State) : List Byte → State
  | hi :: lo :: _ => (s.writeByte (fetchAddr s.pc) hi).writeByte (fetchAddr s.pc + 1) lo
  | [_] => s
  | [] => s

end Sys2Proof.Machine
end

