-- ==== Sys2Proof/Machine/Alu.lean ====
section
/-! DEFINITION. Immediate loads, the ALU and random (42_alu.md). Operands are read at the head of the body
(R140); a result is written before its flag (R141). -/

namespace Sys2Proof.Machine

/-- LD Vx, NN (R142). -/
def execLdImm (x : Nibble) (nn : Byte) (s : State) : Host.Outcome State Fault Refusal :=
  .next (s.setV x nn)

/-- ADD Vx, NN (R143): no flag. -/
def execAddImm (x : Nibble) (nn : Byte) (s : State) : Host.Outcome State Fault Refusal :=
  .next (s.setV x (s.readV x + nn))

/-- LD Vx, Vy (R144). -/
def execLdReg (x y : Nibble) (s : State) : Host.Outcome State Fault Refusal :=
  .next (s.setV x (s.readV y))

/-- OR Vx, Vy (R145). -/
def execOr (x y : Nibble) (s : State) : Host.Outcome State Fault Refusal :=
  .next (s.setLogicResult x (s.readV x ||| s.readV y))

/-- AND Vx, Vy (R146). -/
def execAnd (x y : Nibble) (s : State) : Host.Outcome State Fault Refusal :=
  .next (s.setLogicResult x (s.readV x &&& s.readV y))

/-- XOR Vx, Vy (R147). -/
def execXor (x y : Nibble) (s : State) : Host.Outcome State Fault Refusal :=
  .next (s.setLogicResult x (s.readV x ^^^ s.readV y))

/-- ADD Vx, Vy (R148). -/
def execAddReg (x y : Nibble) (s : State) : Host.Outcome State Fault Refusal :=
  .next (s.setResultFlag x (s.readV x + s.readV y) (carryFlag (s.readV x) (s.readV y)))

/-- SUB Vx, Vy (R149): minuend V[X]. -/
def execSub (x y : Nibble) (s : State) : Host.Outcome State Fault Refusal :=
  .next (s.setResultFlag x (s.readV x - s.readV y)
    (noBorrowFlag s.cfg.subEqFlag (s.readV x) (s.readV y)))

/-- SHR Vx (, Vy) (R150). -/
def execShr (x y : Nibble) (s : State) : Host.Outcome State Fault Refusal :=
  .next (s.setResultFlag x (s.shiftSource x y >>> 1) (shiftedOutLow (s.shiftSource x y)))

/-- SUBN Vx, Vy (R151): minuend V[Y]. -/
def execSubn (x y : Nibble) (s : State) : Host.Outcome State Fault Refusal :=
  .next (s.setResultFlag x (s.readV y - s.readV x)
    (noBorrowFlag s.cfg.subEqFlag (s.readV y) (s.readV x)))

/-- SHL Vx (, Vy) (R152). -/
def execShl (x y : Nibble) (s : State) : Host.Outcome State Fault Refusal :=
  .next (s.setResultFlag x (s.shiftSource x y <<< 1) (shiftedOutHigh (s.shiftSource x y)))

/-- RND Vx, NN (R160): one byte of the random input, masked. -/
def execRnd (x : Nibble) (nn : Byte) (s : State) : Host.Outcome State Fault Refusal :=
  .next (s.takeRnd.setV x (s.rnd &&& nn))

end Sys2Proof.Machine
end

