-- ==== Sys2Proof/Machine/ControlFlow.lean ====
section
/-! DEFINITION. Control flow (41_control_flow.md). When a body begins, PC holds a + 2 (R103). -/

namespace Sys2Proof.Machine

/-- The unknown-opcode no-op (40_cycle.md R106): one diagnostic, no other write. -/
def State.unknownOpcode (s : State) (op : Word) : State := s.report (.unknownOpcode s.instrAddr op)

/-- RET (R121). -/
def execRet (x : Nibble) (s : State) : Host.Outcome State Fault Refusal :=
  if h : 0 < s.sp.val then .next (s.popToPc h)
  else .next (s.raiseFault .stackUnderflow (encode (.ret x)))

/-- SYS NNN (R122): the unknown-opcode rule. -/
def execSys (nnn : Addr) (s : State) : Host.Outcome State Fault Refusal :=
  .next (s.unknownOpcode (encode (.sys nnn)))

/-- JP NNN (R123). -/
def execJp (nnn : Addr) (s : State) : Host.Outcome State Fault Refusal :=
  .next (s.setPc (nnn.setWidth 16))

/-- CALL NNN (R124). -/
def execCall (nnn : Addr) (s : State) : Host.Outcome State Fault Refusal :=
  if h : s.sp.val < 12 then .next ((s.push s.pc h).setPc (nnn.setWidth 16))
  else .next (s.raiseFault .stackOverflow (encode (.call nnn)))

/-- SE Vx, NN (R128). -/
def execSeImm (x : Nibble) (nn : Byte) (s : State) : Host.Outcome State Fault Refusal :=
  .next (s.skipIf (s.readV x == nn))

/-- SNE Vx, NN (R129). -/
def execSneImm (x : Nibble) (nn : Byte) (s : State) : Host.Outcome State Fault Refusal :=
  .next (s.skipIf (s.readV x != nn))

/-- SE Vx, Vy (R130); n is not read. -/
def execSeReg (x y : Nibble) (s : State) : Host.Outcome State Fault Refusal :=
  .next (s.skipIf (s.readV x == s.readV y))

/-- SNE Vx, Vy (R131); n is not read. -/
def execSneReg (x y : Nibble) (s : State) : Host.Outcome State Fault Refusal :=
  .next (s.skipIf (s.readV x != s.readV y))

/-- JP V0, NNN (R138). -/
def execJpV0 (nnn : Addr) (s : State) : Host.Outcome State Fault Refusal :=
  .next (s.setPc (nnn.setWidth 16 + (s.jumpOffset nnn).setWidth 16))

end Sys2Proof.Machine
end

