-- ==== Sys2Proof/Machine/Display.lean ====
section
/-! DEFINITION. The display (44_display.md): clear and sprite draw. -/

namespace Sys2Proof.Machine

/-- CLS (R191): every pixel off; DIRTY is set. -/
def execCls (s : State) : Host.Outcome State Fault Refusal :=
  .next (s.paint Framebuffer.blank)

/-- A draw in progress: the framebuffer, and c, whether an on pixel has been turned off (R195). -/
abbrev Drawing := Framebuffer × Bool

/-- The inner loop of R195 over the bits b of one row, at screen row y: bit 7 − b of the row is the
pixel at x0 + b, and the loop breaks at the right edge. -/
def drawRow (row : Byte) (x0 y : Nat) : List Nat → Drawing → Drawing
  | [], d => d
  | b :: bs, d =>
    if 64 ≤ x0 + b then d
    else if row.getLsbD (7 - b) then
      drawRow row x0 y bs (Framebuffer.flip d.1 (x0 + b) y, d.2 || Framebuffer.get d.1 (x0 + b) y)
    else drawRow row x0 y bs d

/-- The outer loop of R195 over the rows r, whose byte is `rowAt r`; it breaks at the bottom edge. -/
def drawRows (rowAt : Nat → Byte) (x0 y0 : Nat) : List Nat → Drawing → Drawing
  | [], d => d
  | r :: rs, d =>
    if 32 ≤ y0 + r then d
    else drawRows rowAt x0 y0 rs (drawRow (rowAt r) x0 (y0 + r) (List.range 8) d)

/-- How many rows of a sprite of n rows at y0 are on the screen: the rows that are read (R195). -/
def visibleRows (n y0 : Nat) : Nat := min n (32 - y0)

/-- The column and the row the sprite starts at: "Wrapping applies only to the origin" (R195). -/
def State.originX (s : State) (x : Nibble) : Nat := (s.readV x).toNat % 64
/-- See `State.originX`. -/
def State.originY (s : State) (y : Nibble) : Nat := (s.readV y).toNat % 32

/-- Byte r of the sprite at I. -/
def State.spriteRow (s : State) (r : Nat) : Byte := s.readByte (ea (s.iRel r))

/-- The draw of DXYN on the framebuffer, from the operands as they stand before it. -/
def State.drawSprite (s : State) (x y n : Nibble) : Drawing :=
  drawRows s.spriteRow (s.originX x) (s.originY y) (List.range n.toNat) (s.fb, false)

/-- DRW Vx, Vy, N (R195): VF ends as c whatever X and Y are, and DIRTY is set. -/
def execDrw (x y n : Nibble) (s : State) : Host.Outcome State Fault Refusal :=
  s.access (s.iRange (visibleRows n.toNat (s.originY y)))
    (fun t =>
      let d := t.drawSprite x y n
      (t.paint d.1).setV 0xF#4 (flagByte d.2))

end Sys2Proof.Machine
end

