-- ==== Sys2Proof/Machine/IndexMemory.lean ====
section
/-! DEFINITION. The index register and memory transfers (43_index_memory.md). -/

namespace Sys2Proof.Machine

/-- LD I, NNN (R170). -/
def execLdI (nnn : Addr) (s : State) : Host.Outcome State Fault Refusal :=
  .next (s.setI (nnn.setWidth 16))

/-- ADD I, Vx (R172): VF is not written. -/
def execAddI (x : Nibble) (s : State) : Host.Outcome State Fault Refusal :=
  .next (s.setI (s.i + (s.readV x).setWidth 16))

/-- LD F, Vx (R175): five bytes a glyph. -/
def execLdF (x : Nibble) (s : State) : Host.Outcome State Fault Refusal :=
  .next (s.setI (BitVec.ofNat 16 (5 * s.fontDigit x)))

/-- The three decimal digits of a byte, hundreds first (R178). -/
def bcdDigits (v : Byte) : List Byte :=
  [BitVec.ofNat 8 (v.toNat / 100), BitVec.ofNat 8 (v.toNat / 10 % 10), BitVec.ofNat 8 (v.toNat % 10)]

/-- MemWrite(EA(e), 1, b) for the bytes `bs` at e, e + 1, … (R13), ascending. -/
def State.storeFrom (s : State) (e : Nat) : List Byte → State
  | [] => s
  | b :: bs => State.storeFrom (s.writeByte (ea e) b) (e + 1) bs

/-- V[k], V[k + 1], … <- the bytes `bs`, ascending. -/
def State.loadFrom (s : State) (k : Nat) : List Byte → State
  | [] => s
  | b :: bs => State.loadFrom (s.setV (BitVec.ofNat 4 k) b) (k + 1) bs

/-- V[0], …, V[n − 1]. -/
def State.regs (s : State) (n : Nat) : List Byte :=
  (List.range n).map (fun k => s.readV (BitVec.ofNat 4 k))

/-- MemRead(EA(I + k), 1) for k = 0 .. n − 1. -/
def State.bytesAtI (s : State) (n : Nat) : List Byte :=
  (List.range n).map (fun k => s.readByte (ea (s.iRel k)))

/-- LD B, Vx (R178). -/
def execLdB (x : Nibble) (s : State) : Host.Outcome State Fault Refusal :=
  s.access (s.iRange 3) (fun t => t.storeFrom t.i.toNat (bcdDigits (t.readV x)))

/-- LD [I], Vx (R181). -/
def execStRegs (x : Nibble) (s : State) : Host.Outcome State Fault Refusal :=
  s.access (s.iRange (x.toNat + 1))
    (fun t => (t.storeFrom t.i.toNat (t.regs (x.toNat + 1))).advanceI x)

/-- LD Vx, [I] (R184). The loop reads nothing it has written: only registers are written. -/
def execLdRegs (x : Nibble) (s : State) : Host.Outcome State Fault Refusal :=
  s.access (s.iRange (x.toNat + 1))
    (fun t => (t.loadFrom 0 (t.bytesAtI (x.toNat + 1))).advanceI x)

end Sys2Proof.Machine
end

