-- ==== Sys2Proof/Machine/KeypadTimers.lean ====
section
/-! DEFINITION. Keypad skips, the key-wait and timer transfers (45_keypad_timers.md), and the timer tick
(60_exceptions.md R250). -/

namespace Sys2Proof.Machine

/-- SKP Vx (R211). -/
def execSkp (x : Nibble) (s : State) : Host.Outcome State Fault Refusal :=
  s.withKeyIndex (s.readV x) (fun k t => t.skipIf (t.keyDown k))

/-- SKNP Vx (R212). -/
def execSknp (x : Nibble) (s : State) : Host.Outcome State Fault Refusal :=
  s.withKeyIndex (s.readV x) (fun k t => t.skipIf (!t.keyDown k))

/-- LD Vx, K (R213): with no key pressed PC goes back to a; else the lowest pressed key. -/
def execLdVxK (x : Nibble) (s : State) : Host.Outcome State Fault Refusal :=
  match s.lowestKey with
  | none => .next (s.setPc (s.pc - 2))
  | some k => .next (s.setV x (BitVec.ofNat 8 k))

/-- LD Vx, DT (R215). -/
def execLdVxDt (x : Nibble) (s : State) : Host.Outcome State Fault Refusal :=
  .next (s.setV x s.dt)

/-- LD DT, Vx (R216). -/
def execLdDtVx (x : Nibble) (s : State) : Host.Outcome State Fault Refusal :=
  .next (s.setDt (s.readV x))

/-- LD ST, Vx (R217). -/
def execLdStVx (x : Nibble) (s : State) : Host.Outcome State Fault Refusal :=
  .next (s.setSt (s.readV x))

/-- One less, never below 0 (R250: the timers "saturate at 0, never go negative"). -/
def decrement (b : Byte) : Byte := if b = 0 then 0 else b - 1

/-- TICK (R250): with STATUS = Running both timers go down, independently; else nothing (R45). -/
def State.tick (s : State) : State :=
  match s.status with
  | .running => (s.setDt (decrement s.dt)).setSt (decrement s.st)
  | .paused => s
  | .halted => s

end Sys2Proof.Machine
end

