-- ==== Sys2Proof/Machine/Step.lean ====
section
/-! DEFINITION. One STEP event (40_cycle.md R100, R101). -/

namespace Sys2Proof.Machine

/-- STEP: with STATUS = Running, fetch the word at PC, advance PC by 2, run the instruction it decodes to
(an unknown word runs as the no-op of R106), end the step; else nothing (R101). -/
def step (s : State) : Host.Outcome State Fault Refusal :=
  match s.status with
  | .running =>
    match s.fetch with
    | .error f => .fault f
    | .ok (op, t) =>
      match decodeWord s.cfg.strict59 op with
      | .ok i => retire s.pc op i.writesDisplay (exec i t.advance)
      | .error _ => retire s.pc op false (.next (t.advance.unknownOpcode op))
  | .paused => .next s
  | .halted => .next s

/-- The state `s` with the instruction whose `nbits` bits are `w` stored where the next STEP fetches.
It stands for the ROM that INIT loads (notes/assumptions/13.md). -/
def State.withFetchWord (s : State) (nbits w : Nat) : State := s.placeAtPc (tableBytes nbits w)

end Sys2Proof.Machine
end

