-- ==== Sys2Proof/Machine/HostInputs.lean ====
section
/-! DEFINITION. The block's inputs other than STEP and TICK, and its read ports (10_state.md R46 to R52),
and INIT (70_reset_and_hazards.md R270 to R273). -/

namespace Sys2Proof.Machine

/-- KEY(k, b): KEYS[k] <- b (R46). -/
def State.key (s : State) (k : Nibble) (b : Bool) : State :=
  { s with keys := if b then s.keys ||| (1#16 <<< k.toNat) else s.keys &&& ~~~(1#16 <<< k.toNat) }

/-- PAUSE (R47). -/
def State.pause (s : State) : State :=
  match s.status with
  | .running => s.setStatus .paused
  | .paused => s
  | .halted => s

/-- RESUME (R47). -/
def State.resume (s : State) : State :=
  match s.status with
  | .running => s
  | .paused => s.setStatus .running
  | .halted => s

/-- HALT (R47); FAULT stays as it is (R33). -/
def State.halt (s : State) : State := s.setStatus .halted

/-- DIRTY_CLR (R48). -/
def State.dirtyClr (s : State) : State := s.setDirty false

/-! ### Read ports -/

/-- STATUS[1:0] (R32, R51). -/
def Status.code : Status → BitVec 2
  | .running => 0
  | .paused => 1
  | .halted => 2

/-- FAULT.CAUSE (R33, R51). -/
def FaultCause.code : FaultCause → BitVec 2
  | .none => 0
  | .stackOverflow => 1
  | .stackUnderflow => 2

/-- DIAG_CODE (R50, R238). -/
def Diag.code : Diag → Nat
  | .unknownOpcode _ _ => 1
  | .memOob _ => 2
  | .pcOob _ => 3
  | .keyOob _ => 4
  | .stackFault _ _ _ => 5

/-- FB_READ(x, y) (R48). -/
def State.fbRead (s : State) (x : Fin 64) (y : Fin 32) : Bool := s.pixel x.val y.val

/-- SOUND_ON (R51). -/
def State.soundOn (s : State) : Bool := s.st != 0

/-! ### INIT -/

/-- What INIT is given (R270, R272, R273). -/
inductive RomImage where
  /-- The file is missing or unreadable. -/
  | missing
  /-- The bytes of the file, in file order. -/
  | bytes (rom : List Byte)
  deriving DecidableEq, Repr

/-- A startup fault (R273), with the size figures of an oversize ROM. -/
inductive StartupFault where
  /-- MISSING_OR_UNREADABLE. -/
  | missingOrUnreadable
  /-- OVERSIZE, the length and the most allowed. -/
  | oversize (size limit : Nat)
  deriving DecidableEq, Repr

/-- ROM_MAX (R8). -/
def romMax : Nat := 3584

/-- INIT(rom) (R270): memory zeroed, font, ROM from 0x200, everything else as R40; or a startup fault and
no state (R273). `draws` is how far the random input has come (notes/assumptions/2.md). -/
def initialise (cfg : Config) (draws : Nat) : RomImage → Except StartupFault State
  | .missing => .error .missingOrUnreadable
  | .bytes rom =>
    if romMax < rom.length then .error (.oversize rom.length romMax)
    else .ok ((State.resetWith cfg draws).writeBytes 0x200 rom)

end Sys2Proof.Machine
end

