-- ==== Sys2Proof/Machine/Events.lean ====
section
/-! DEFINITION. The block and the events the host drives it with, one at a time in any order (10_state.md R45
to R53; 60_exceptions.md R251, R252). STEPS_PER_TICK is open: a list of events fixes no ratio. -/

namespace Sys2Proof.Machine

/-- Every input event of the block (R45 to R48). -/
inductive HostEvent where
  /-- STEP (R45, R100). -/
  | step
  /-- TICK (R45, R250). -/
  | tick
  /-- INIT(rom) (R45, R270). -/
  | init (rom : RomImage)
  /-- KEY(k, b) (R46). -/
  | key (k : Nibble) (b : Bool)
  /-- PAUSE (R47). -/
  | pause
  /-- RESUME (R47). -/
  | resume
  /-- HALT (R47). -/
  | halt
  /-- DIRTY_CLR (R48). -/
  | dirtyClr
  deriving DecidableEq, Repr

/-- The block as the host meets it. -/
inductive Block where
  /-- "After a failed INIT no machine state exists" (R273); the parameters and the random input stay. -/
  | absent (why : StartupFault) (cfg : Config) (draws : Nat)
  /-- The block with its state. -/
  | up (s : State)
  deriving DecidableEq, Repr

/-- The block after an INIT. -/
def Block.afterInit (cfg : Config) (draws : Nat) (rom : RomImage) : Block :=
  match initialise cfg draws rom with
  | .ok s => .up s
  | .error f => .absent f cfg draws

/-- One event on a machine that has a state; INIT is allowed from any status and replaces the whole state
(R270). -/
def State.react (s : State) : HostEvent → Host.Outcome Block Fault Refusal
  | .step =>
    match Sys2Proof.Machine.step s with
    | .next t => .next (.up t)
    | .fault f => .fault f
    | .refused r => .refused r
  | .tick => .next (.up s.tick)
  | .init rom => .next (Block.afterInit s.cfg s.draws rom)
  | .key k b => .next (.up (s.key k b))
  | .pause => .next (.up s.pause)
  | .resume => .next (.up s.resume)
  | .halt => .next (.up s.halt)
  | .dirtyClr => .next (.up s.dirtyClr)

/-- One event on the block. With no machine state only INIT is admitted (R273); any other event leaves the
block as it is (notes/assumptions/16.md). -/
def Block.react (b : Block) (e : HostEvent) : Host.Outcome Block Fault Refusal :=
  match b with
  | .up s => s.react e
  | .absent why cfg draws =>
    match e with
    | .init rom => .next (Block.afterInit cfg draws rom)
    | .step | .tick | .key _ _ | .pause | .resume | .halt | .dirtyClr => .next (.absent why cfg draws)

/-- Events in the order the host delivers them (R53, R233); a stop of the model ends the run. -/
def Block.run (b : Block) : List HostEvent → Host.Outcome Block Fault Refusal
  | [] => .next b
  | e :: es =>
    match b.react e with
    | .next b' => Block.run b' es
    | .fault f => .fault f
    | .refused r => .refused r

end Sys2Proof.Machine
end

