-- ==== Sys2Proof/Safety.lean ====
section
/-! DEFINITION. The terms claims use: what an instruction may change (its footprint), the invariants of a safe
run, and the sprite as the set of pixels it covers. -/

namespace Sys2Proof.Machine

/-! ### Frames -/

/-- What may change: registers, stored bytes, and the other pieces of state that are marked. -/
structure Footprint where
  /-- V registers. -/
  v : List Nibble := []
  /-- Bytes of MEM. -/
  stored : List Addr := []
  /-- I. -/
  i : Bool := false
  /-- PC. -/
  pc : Bool := false
  /-- STACK. -/
  stack : Bool := false
  /-- SP. -/
  sp : Bool := false
  /-- DT. -/
  dt : Bool := false
  /-- ST. -/
  st : Bool := false
  /-- KEYS. -/
  keys : Bool := false
  /-- FB. -/
  fb : Bool := false
  /-- DIRTY. -/
  dirty : Bool := false
  /-- STATUS. -/
  status : Bool := false
  /-- FAULT. -/
  fault : Bool := false
  /-- FB_WE. -/
  fbWe : Bool := false
  /-- The event outputs. -/
  events : Bool := false
  /-- The random input. -/
  draws : Bool := false
  deriving DecidableEq, Repr

/-- Everything outside the footprint is in `t` as it was in `s`; the parameters always are. -/
structure Preserves (fp : Footprint) (s t : State) : Prop where
  v : ∀ k : Nibble, k ∉ fp.v → t.readV k = s.readV k
  mem : ∀ a : Addr, a ∉ fp.stored → t.readByte a = s.readByte a
  i : fp.i = false → t.i = s.i
  pc : fp.pc = false → t.pc = s.pc
  stack : fp.stack = false → t.stack = s.stack
  sp : fp.sp = false → t.sp = s.sp
  dt : fp.dt = false → t.dt = s.dt
  st : fp.st = false → t.st = s.st
  keys : fp.keys = false → t.keys = s.keys
  fb : fp.fb = false → t.fb = s.fb
  dirty : fp.dirty = false → t.dirty = s.dirty
  status : fp.status = false → t.status = s.status
  fault : fp.fault = false → t.fault = s.fault
  fbWe : fp.fbWe = false → t.fbWe = s.fbWe
  events : fp.events = false → t.events = s.events
  draws : fp.draws = false → t.draws = s.draws
  cfg : t.cfg = s.cfg

/-! ### Invariants -/

/-- What every event keeps: memory has its canonical form, and a recorded fault goes with STATUS = Halted
(10_state.md R32, R33; 60_exceptions.md R234). -/
structure State.Inv (s : State) : Prop where
  memory : Memory.wf s.cfg.font s.mem = true
  faultHalted : s.fault.cause ≠ .none → s.status = .halted

/-- The invariant of the block: that of its state, when it has one. -/
def Block.Inv : Block → Prop
  | .up s => s.Inv
  | .absent _ _ _ => True

/-! ### Accesses -/

/-- The address check lets the `n` accesses from I on through: P_OOB = mask, or none is above 4095. -/
def State.accessOk (s : State) (n : Nat) : Prop :=
  s.cfg.oob = .mask ∨ ∀ k < n, s.i.toNat + k ≤ 4095

/-- The MEM_OOB events of the `n` accesses from I on, ascending (00_scope.md R13; 60_exceptions.md R233). -/
def State.oobEvents (s : State) (n : Nat) : List Output :=
  ((List.range n).filter (fun k => decide (4095 < s.i.toNat + k))).map
    (fun k => .diag (.memOob (s.i.toNat + k)))

/-- The address of the access at I + k: that sum mod 4096 (00_scope.md R13). -/
def State.addrAtI (s : State) (k : Nat) : Addr := BitVec.ofNat 12 ((s.i.toNat + k) % 4096)

/-! ### Sprites -/

/-- The pixel (px, py) is a set bit of the sprite of DXYN, drawn from (V[X] mod 64, V[Y] mod 32) with bit 7
leftmost (44_display.md R190, R195). Pixels off the screen do not count. -/
def State.spriteSets (s : State) (x y n : Nibble) (px py : Nat) : Bool :=
  let x0 := (s.readV x).toNat % 64
  let y0 := (s.readV y).toNat % 32
  decide (x0 ≤ px ∧ px < x0 + 8 ∧ y0 ≤ py ∧ py < y0 + n.toNat)
    && (s.readByte (s.addrAtI (py - y0))).getLsbD (7 - (px - x0))

/-! ### Who may write what -/

/-- V[k] may be written by the instruction: as its destination V[X] (10_state.md R20), in FX65's range V0..VX,
or as the flag VF (R21); 8XY1 to 8XY3 write VF only when P_LOGIC_VF = cleared. -/
def mayWriteV (logicClears : Bool) (k : Nibble) : Instr → Bool
  | .ldImm x _ | .addImm x _ | .rnd x _ | .ldReg x _ | .ldVxDt x | .ldVxK x => k == x
  | .orReg x _ | .andReg x _ | .xorReg x _ => k == x || (logicClears && k == 0xF#4)
  | .addReg x _ | .sub x _ | .subn x _ | .shr x _ | .shl x _ => k == x || k == 0xF#4
  | .drw _ _ _ => k == 0xF#4
  | .ldRegs x => decide (k.toNat ≤ x.toNat)
  | .cls _ | .ret _ | .sys _ | .jp _ | .call _ | .seImm _ _ | .sneImm _ _ | .seReg _ _ _ | .sneReg _ _ _
  | .ldI _ | .jpV0 _ | .skp _ | .sknp _ | .ldDtVx _ | .ldStVx _ | .addI _ | .ldF _ | .ldB _
  | .stRegs _ => false

/-- How many bytes from I on the instruction stores (20_memory.md R61): three for FX33, X + 1 for FX55. -/
def storeCount : Instr → Nat
  | .ldB _ => 3
  | .stRegs x => x.toNat + 1
  | .cls _ | .ret _ | .sys _ | .jp _ | .call _ | .seImm _ _ | .sneImm _ _ | .seReg _ _ _ | .ldImm _ _
  | .addImm _ _ | .ldReg _ _ | .orReg _ _ | .andReg _ _ | .xorReg _ _ | .addReg _ _ | .sub _ _
  | .shr _ _ | .subn _ _ | .shl _ _ | .sneReg _ _ _ | .ldI _ | .jpV0 _ | .rnd _ _ | .drw _ _ _
  | .skp _ | .sknp _ | .ldVxDt _ | .ldVxK _ | .ldDtVx _ | .ldStVx _ | .addI _ | .ldF _
  | .ldRegs _ => 0

/-- The state with other contents on its outputs. -/
def State.withOutputs (s : State) (es : List Output) (we : Bool) : State :=
  { s with events := es, fbWe := we }

/-! ### The opcode map as data -/

/-- One row of 30_encoding.md R87: match, mask, and the instruction of a word that selects the row. -/
structure MapRow where
  /-- The column "match". -/
  pattern : Word
  /-- The column "mask". -/
  mask : Word
  /-- The instruction, with the fields of R81. -/
  instr : Word → Instr

/-- A word w selects row r when (w & mask_r) = match_r (R87). -/
def MapRow.selects (r : MapRow) (w : Word) : Bool := w &&& r.mask == r.pattern

/-- Rows 1 to 10 of R87. -/
def opcodeMapTop : List MapRow :=
  [ ⟨0x00E0, 0xF0FF, fun w => .cls (w.extractLsb' 8 4)⟩,
    ⟨0x00EE, 0xF0FF, fun w => .ret (w.extractLsb' 8 4)⟩,
    ⟨0x0000, 0xF000, fun w => .sys (w.extractLsb' 0 12)⟩,
    ⟨0x1000, 0xF000, fun w => .jp (w.extractLsb' 0 12)⟩,
    ⟨0x2000, 0xF000, fun w => .call (w.extractLsb' 0 12)⟩,
    ⟨0x3000, 0xF000, fun w => .seImm (w.extractLsb' 8 4) (w.extractLsb' 0 8)⟩,
    ⟨0x4000, 0xF000, fun w => .sneImm (w.extractLsb' 8 4) (w.extractLsb' 0 8)⟩,
    ⟨0x5000, 0xF000, fun w => .seReg (w.extractLsb' 8 4) (w.extractLsb' 4 4) (w.extractLsb' 0 4)⟩,
    ⟨0x6000, 0xF000, fun w => .ldImm (w.extractLsb' 8 4) (w.extractLsb' 0 8)⟩,
    ⟨0x7000, 0xF000, fun w => .addImm (w.extractLsb' 8 4) (w.extractLsb' 0 8)⟩ ]

/-- Rows 11 to 24 of R87. -/
def opcodeMapMiddle : List MapRow :=
  [ ⟨0x8000, 0xF00F, fun w => .ldReg (w.extractLsb' 8 4) (w.extractLsb' 4 4)⟩,
    ⟨0x8001, 0xF00F, fun w => .orReg (w.extractLsb' 8 4) (w.extractLsb' 4 4)⟩,
    ⟨0x8002, 0xF00F, fun w => .andReg (w.extractLsb' 8 4) (w.extractLsb' 4 4)⟩,
    ⟨0x8003, 0xF00F, fun w => .xorReg (w.extractLsb' 8 4) (w.extractLsb' 4 4)⟩,
    ⟨0x8004, 0xF00F, fun w => .addReg (w.extractLsb' 8 4) (w.extractLsb' 4 4)⟩,
    ⟨0x8005, 0xF00F, fun w => .sub (w.extractLsb' 8 4) (w.extractLsb' 4 4)⟩,
    ⟨0x8006, 0xF00F, fun w => .shr (w.extractLsb' 8 4) (w.extractLsb' 4 4)⟩,
    ⟨0x8007, 0xF00F, fun w => .subn (w.extractLsb' 8 4) (w.extractLsb' 4 4)⟩,
    ⟨0x800E, 0xF00F, fun w => .shl (w.extractLsb' 8 4) (w.extractLsb' 4 4)⟩,
    ⟨0x9000, 0xF000, fun w => .sneReg (w.extractLsb' 8 4) (w.extractLsb' 4 4) (w.extractLsb' 0 4)⟩,
    ⟨0xA000, 0xF000, fun w => .ldI (w.extractLsb' 0 12)⟩,
    ⟨0xB000, 0xF000, fun w => .jpV0 (w.extractLsb' 0 12)⟩,
    ⟨0xC000, 0xF000, fun w => .rnd (w.extractLsb' 8 4) (w.extractLsb' 0 8)⟩,
    ⟨0xD000, 0xF000, fun w => .drw (w.extractLsb' 8 4) (w.extractLsb' 4 4) (w.extractLsb' 0 4)⟩ ]

/-- Rows 25 to 35 of R87. -/
def opcodeMapBottom : List MapRow :=
  [ ⟨0xE09E, 0xF0FF, fun w => .skp (w.extractLsb' 8 4)⟩,
    ⟨0xE0A1, 0xF0FF, fun w => .sknp (w.extractLsb' 8 4)⟩,
    ⟨0xF007, 0xF0FF, fun w => .ldVxDt (w.extractLsb' 8 4)⟩,
    ⟨0xF00A, 0xF0FF, fun w => .ldVxK (w.extractLsb' 8 4)⟩,
    ⟨0xF015, 0xF0FF, fun w => .ldDtVx (w.extractLsb' 8 4)⟩,
    ⟨0xF018, 0xF0FF, fun w => .ldStVx (w.extractLsb' 8 4)⟩,
    ⟨0xF01E, 0xF0FF, fun w => .addI (w.extractLsb' 8 4)⟩,
    ⟨0xF029, 0xF0FF, fun w => .ldF (w.extractLsb' 8 4)⟩,
    ⟨0xF033, 0xF0FF, fun w => .ldB (w.extractLsb' 8 4)⟩,
    ⟨0xF055, 0xF0FF, fun w => .stRegs (w.extractLsb' 8 4)⟩,
    ⟨0xF065, 0xF0FF, fun w => .ldRegs (w.extractLsb' 8 4)⟩ ]

/-- The 35 rows of R87, in its order: CLS and RET stand before SYS, whose row they take precedence over. -/
def opcodeMap : List MapRow := opcodeMapTop ++ opcodeMapMiddle ++ opcodeMapBottom

/-! ### A step, seen from outside -/

/-- The instruction that the two bytes at PC decode to (20_memory.md R65; 30_encoding.md R91). -/
def State.current (s : State) : Except DecodeError Instr :=
  decodeWord s.cfg.strict59
    (s.readByte (BitVec.ofNat 12 (s.pc.toNat % 4096))
      ++ s.readByte (BitVec.ofNat 12 ((s.pc.toNat + 1) % 4096)))

/-- The fetch is not stopped: P_OOB = mask, or PC is at most 0x0FFE. -/
def State.fetchOk (s : State) : Prop := s.cfg.oob = .mask ∨ s.pc.toNat ≤ 0x0FFE

/-- The event of the fetch (40_cycle.md R102). -/
def State.pcEvents (s : State) : List Output :=
  if 0x0FFE < s.pc.toNat then [.diag (.pcOob s.pc)] else []

end Sys2Proof.Machine
end

