-- ==== Sys2Proof/Certificates/Slice0/Obligations.lean ====
section
/-! DEFINITION. The statements for the provers. Every result is said in numbers, over the accessors of the
state; `Preserves` (Safety.lean) is the frame: everything outside the named footprint is as before. Bit
patterns that 30_encoding.md R87 marks "[from general knowledge, not in source]" are the spec's own map
(decision D3), which is followed as it stands. -/

open Sys2Proof Sys2Proof.Machine

/-! ### Encoding -/

/-- Decoding the word, or the two bytes, of a well-formed instruction gives it back, with every operand at
every value (30_encoding.md R81, R87, R91). -/
def Obligations.DecodeOfEncodeIsIdentity : Prop :=
  ∀ (strict : Bool) (i : Instr), i.wf strict = true →
    decodeWord strict (encode i) = .ok i ∧
    ∀ rest, decodeBytes strict (encodeBytes i ++ rest) = .ok (i, rest)

/-- A word that decodes is the word of the instruction it decodes to, and that instruction is well-formed:
no bit of a word is dropped (30_encoding.md R81, R91). -/
def Obligations.EncodeOfDecodeIsIdentity : Prop :=
  ∀ (strict : Bool) (w : Word) (i : Instr), decodeWord strict w = .ok i →
    i.wf strict = true ∧ encode i = w

/-- R87: the map has 35 rows; a word decodes as the first row it selects, CLS and RET before SYS, and to no
instruction when it selects none; no other two rows select one word. At the map's masks for families 5 and
9, which are those of P_STRICT_5_9 = false. -/
def Obligations.DecodingFollowsOpcodeMap : Prop :=
  opcodeMap.length = 35 ∧
  (∀ w : Word, decodeWord false w =
    match opcodeMap.find? (fun r => r.selects w) with
    | some r => .ok (r.instr w)
    | none => .error (.unknownOpcode w)) ∧
  (∀ (w : Word) (j k : Nat) (hj : j < opcodeMap.length) (hk : k < opcodeMap.length), j < k →
    opcodeMap[j].selects w = true → opcodeMap[k].selects w = true → (j = 0 ∨ j = 1) ∧ k = 2)

/-- 30_encoding.md R86 and R88: exactly these words are unknown. -/
def Obligations.UnknownWordsAreExactlyThese : Prop :=
  ∀ (strict : Bool) (w : Word),
    decodeWord strict w = .error (.unknownOpcode w) ↔
      (w.toNat / 4096 = 8 ∧ w.toNat % 16 ∈ [8, 9, 10, 11, 12, 13, 15]) ∨
      (w.toNat / 4096 = 14 ∧ w.toNat % 256 ∉ [0x9E, 0xA1]) ∨
      (w.toNat / 4096 = 15 ∧
        w.toNat % 256 ∉ [0x07, 0x0A, 0x15, 0x18, 0x1E, 0x29, 0x33, 0x55, 0x65]) ∨
      (strict = true ∧ (w.toNat / 4096 = 5 ∨ w.toNat / 4096 = 9) ∧ w.toNat % 16 ≠ 0)

/-- Words of the spec's vectors and examples, one or more of each of the sixteen families, decode to what they
stand for. -/
def Obligations.SampleWordsDecode : Prop :=
  decodeWord false 0x05E0 = .ok (.cls 5) ∧ decodeWord false 0x03EE = .ok (.ret 3) ∧
  decodeWord false 0x0123 = .ok (.sys 0x123) ∧ decodeWord false 0x1234 = .ok (.jp 0x234) ∧
  decodeWord false 0x2300 = .ok (.call 0x300) ∧ decodeWord false 0x3342 = .ok (.seImm 3 0x42) ∧
  decodeWord false 0x4342 = .ok (.sneImm 3 0x42) ∧ decodeWord false 0x5121 = .ok (.seReg 1 2 1) ∧
  decodeWord true 0x5121 = .error (.unknownOpcode 0x5121) ∧
  decodeWord false 0x6005 = .ok (.ldImm 0 5) ∧ decodeWord false 0x7003 = .ok (.addImm 0 3) ∧
  decodeWord false 0x8F14 = .ok (.addReg 0xF 1) ∧ decodeWord false 0x810E = .ok (.shl 1 0) ∧
  decodeWord false 0x8018 = .error (.unknownOpcode 0x8018) ∧ decodeWord false 0x9120 = .ok (.sneReg 1 2 0) ∧
  decodeWord false 0xA2F0 = .ok (.ldI 0x2F0) ∧ decodeWord false 0xB300 = .ok (.jpV0 0x300) ∧
  decodeWord false 0xC30F = .ok (.rnd 3 0x0F) ∧ decodeWord false 0xDBC5 = .ok (.drw 0xB 0xC 5) ∧
  decodeWord false 0xE29E = .ok (.skp 2) ∧ decodeWord false 0xF255 = .ok (.stRegs 2)

/-! ### The cycle -/

/-- R65, R102: the word at PC is MEM[a mod 4096] ++ MEM[(a + 1) mod 4096], the first byte high; a PC above
0x0FFE is reported, and the fetch changes nothing else. At P_OOB = mask, the value R102 is written at. -/
def Obligations.FetchReadsBigEndianWord : Prop :=
  ∀ s : State, s.cfg.oob = .mask →
    ∃ w t, s.fetch = .ok (w, t) ∧
      w.toNat = 256 * (s.readByte (BitVec.ofNat 12 (s.pc.toNat % 4096))).toNat
        + (s.readByte (BitVec.ofNat 12 ((s.pc.toNat + 1) % 4096))).toNat ∧
      t.events = s.events ++ (if s.pc.toNat > 0x0FFE then [.diag (.pcOob s.pc)] else []) ∧
      Preserves { events := true } s t

/-- R100: with STATUS = Running, when the two bytes at PC decode to an instruction, a step reports an
out-of-range PC, advances PC by 2 and runs that instruction's exec; at its end FB_WE is set for CLS and DRW
alone and the trace of (a, op) is presented. A step whose body halts the machine ends there, with FB_WE 0
(R107). A fault of exec is the step's. -/
def Obligations.StepRunsDecodedInstruction : Prop :=
  ∀ (s : State) (i : Instr), s.status = .running → s.fetchOk → s.current = .ok i →
    ∀ e : State, e = { s with pc := s.pc + 2, events := s.events ++ s.pcEvents } →
      (∀ t, exec i e = .next t → t.status = .running → t.cfg.trace = true →
        step s = .next { t with
          fbWe := i.writesDisplay, events := t.events ++ [.trace s.pc (encode i)] }) ∧
      (∀ t, exec i e = .next t → t.status = .running → t.cfg.trace = false →
        step s = .next { t with fbWe := i.writesDisplay }) ∧
      (∀ t, exec i e = .next t → t.status ≠ .running → step s = .next { t with fbWe := false }) ∧
      (∀ f, exec i e = .fault f → step s = .fault f)

/-- R106: a word that selects no row, and a SYS word, consumes a step and changes nothing but PC, which ends
at a + 2; the condition is reported, FB_WE is 0, and the trace is presented when it is on. -/
def Obligations.UnknownWordIsReportedNoOp : Prop :=
  ∀ (s : State) (w : Word), s.status = .running → s.fetchOk →
    s.current = .error (.unknownOpcode w) ∨ (∃ nnn, s.current = .ok (.sys nnn) ∧ w = encode (.sys nnn)) →
    ∃ t, step s = .next t ∧ t.pc.toNat = (s.pc.toNat + 2) % 65536 ∧ t.fbWe = false ∧
      t.events = s.events ++ s.pcEvents ++ [.diag (.unknownOpcode s.pc w)]
        ++ (if s.cfg.trace then [.trace s.pc w] else []) ∧
      Preserves { pc := true, events := true, fbWe := true } s t

/-- R101: with STATUS Paused or Halted, STEP does nothing. -/
def Obligations.StatusGatesStep : Prop :=
  ∀ s : State, s.status = .paused ∨ s.status = .halted → step s = .next s

/-- The machine is total: at the spec's policies (P_OOB = mask, and its like for key numbers) every step of
every state answers a next state, and whatever the policies no step is refused (60_exceptions.md R230:
everything but a stack fault "degrades to 'continue running, diagnostic emitted.'"). -/
def Obligations.StepAlwaysAnswers : Prop :=
  (∀ s : State, s.cfg.oob = .mask → s.cfg.keyOob = .mask → ∃ t, step s = .next t) ∧
  ∀ (s : State) (r : Refusal), step s ≠ .refused r

/-- Every step keeps the invariant: canonical memory, and a recorded fault goes with STATUS = Halted. -/
def Obligations.StepKeepsInvariant : Prop :=
  ∀ s t : State, s.Inv → step s = .next t → t.Inv

/-- The reset state meets the invariant. -/
def Obligations.ResetMeetsInvariant : Prop := State.reset.Inv

/-- Every sequence of host events (STEP, TICK, INIT, KEY, PAUSE, RESUME, HALT, DIRTY_CLR), in any order, from
any state that meets the invariant, keeps it (10_state.md R53). -/
def Obligations.HostEventsKeepInvariant : Prop :=
  ∀ (b b' : Block) (es : List HostEvent), b.Inv → b.run es = .next b' → b'.Inv

/-- 10_state.md R32, 40_cycle.md R109: a step takes a running machine out of Running only by halting it, and
only at a CALL with SP = 12 or a RET with SP = 0, whose cause, address and word it records. -/
def Obligations.OnlyStackFaultsHaltAStep : Prop :=
  ∀ s t : State, s.status = .running → step s = .next t → t.status ≠ .running →
    t.status = .halted ∧
    ((∃ nnn, s.current = .ok (.call nnn) ∧ s.sp.val = 12 ∧
        t.fault = { cause := .stackOverflow, pc := s.pc, op := encode (.call nnn) }) ∨
     (∃ x, s.current = .ok (.ret x) ∧ s.sp.val = 0 ∧
        t.fault = { cause := .stackUnderflow, pc := s.pc, op := encode (.ret x) }))

/-- R231, R232, R234, R107: a CALL with SP = 12 and a RET with SP = 0 halt the machine precisely. PC ends at a,
FAULT holds the cause, a and op, STATUS is Halted, STACK_FAULT is the step's last event, FB_WE is 0, and nothing
else differs from before the step; no STEP or TICK has any effect afterwards. That no trace follows STACK_FAULT
is the model's choice (notes/assumptions/8.md). -/
def Obligations.StackFaultStepIsPrecise : Prop :=
  ∀ (s : State) (i : Instr) (c : FaultCause), s.status = .running → s.fetchOk → s.current = .ok i →
    ((∃ nnn, i = .call nnn) ∧ s.sp.val = 12 ∧ c = .stackOverflow) ∨
      ((∃ x, i = .ret x) ∧ s.sp.val = 0 ∧ c = .stackUnderflow) →
    ∃ t, step s = .next t ∧ t.pc = s.pc ∧ t.status = .halted ∧
      t.fault.cause = c ∧ t.fault.pc = s.pc ∧ t.fault.op = encode i ∧ t.fbWe = false ∧
      t.events = s.events ++ s.pcEvents ++ [.diag (.stackFault c s.pc (encode i))] ∧
      Preserves { status := true, fault := true, events := true, fbWe := true } s t ∧
      step t = .next t ∧ t.tick = t

/-- 10_state.md R32, 60_exceptions.md R235: Halted is final until INIT. No sequence of other events runs an
instruction or moves a timer: only KEYS and DIRTY, which the host writes, may differ after it. -/
def Obligations.HaltedIsFinalUntilInit : Prop :=
  ∀ (s : State) (es : List HostEvent), s.status = .halted → (∀ rom, .init rom ∉ es) →
    ∃ t, (Block.up s).run es = .next (.up t) ∧ t.status = .halted ∧
      Preserves { keys := true, dirty := true } s t

/-- 10_state.md R29, R30, R52: FB_WE is 1 exactly for the steps that run CLS or DRW; with it DIRTY is set, and
without it neither FB nor DIRTY changes. -/
def Obligations.OnlyDisplayStepsWriteFramebuffer : Prop :=
  ∀ s t : State, s.status = .running → step s = .next t →
    (t.fbWe = true ↔ (∃ x, s.current = .ok (.cls x)) ∨ ∃ x y n, s.current = .ok (.drw x y n)) ∧
    (t.fbWe = true → t.dirty = true) ∧
    (t.fbWe = false → t.dirty = s.dirty ∧ ∀ px py, t.pixel px py = s.pixel px py)

/-- 20_memory.md R61: FX33 and FX55 alone write memory, and only the bytes EA(I + k) they store. -/
def Obligations.OnlyStoresWriteMemory : Prop :=
  ∀ (i : Instr) (s t : State), exec i s = .next t →
    ∀ a, t.readByte a ≠ s.readByte a → ∃ k < storeCount i, a = s.addrAtI k

/-- 10_state.md R20, R21: a V register changes only as the destination of the instructions listed there, or
as VF written as a flag. -/
def Obligations.RegistersChangeOnlyAsListed : Prop :=
  ∀ (i : Instr) (s t : State), exec i s = .next t →
    ∀ k, t.readV k ≠ s.readV k → mayWriteV (s.cfg.logicVF == .cleared) k i = true

/-- 10_state.md R23, R25, R26, R27, R28, R30, R33, R49: which instructions write I, the stack, the timers,
DIRTY, the fault record and the random input; no instruction writes KEYS, FB_WE or the parameters. -/
def Obligations.PrivateStateHasFewWriters : Prop :=
  ∀ (i : Instr) (s t : State), exec i s = .next t →
    (t.i ≠ s.i → (∃ nnn, i = .ldI nnn) ∨ (∃ x, i = .addI x) ∨ (∃ x, i = .ldF x) ∨
      (s.cfg.ldstIncI = true ∧ ((∃ x, i = .stRegs x) ∨ ∃ x, i = .ldRegs x))) ∧
    (t.stack ≠ s.stack → ∃ nnn, i = .call nnn) ∧
    (t.sp ≠ s.sp → (∃ nnn, i = .call nnn) ∨ ∃ x, i = .ret x) ∧
    (t.dt ≠ s.dt → ∃ x, i = .ldDtVx x) ∧
    (t.st ≠ s.st → ∃ x, i = .ldStVx x) ∧
    (t.fb ≠ s.fb ∨ t.dirty ≠ s.dirty → i.writesDisplay = true) ∧
    (t.fault ≠ s.fault ∨ t.status ≠ s.status → (∃ nnn, i = .call nnn) ∨ ∃ x, i = .ret x) ∧
    (t.draws ≠ s.draws → ∃ x nn, i = .rnd x nn) ∧
    t.keys = s.keys ∧ t.fbWe = s.fbWe ∧ t.cfg = s.cfg

/-- 60_exceptions.md R239 and R260, 10_state.md R52: what has been presented on the outputs decides nothing.
That the events and FB_WE are kept in State is the model's choice (notes/assumptions/6.md, 7.md). Two states
that differ only there step alike: the same outcome, the same new events, and next states that differ only
there. -/
def Obligations.OutputsDecideNothing : Prop :=
  ∀ (s : State) (es : List Output) (we : Bool),
    match step s, step (s.withOutputs es we) with
    | .next t, .next t' =>
      t'.withOutputs [] false = t.withOutputs [] false ∧
        ∃ new, t.events = s.events ++ new ∧ t'.events = es ++ new
    | .fault f, .fault f' => f = f'
    | .refused r, .refused r' => r = r'
    | _, _ => False

/-! ### Memory -/

/-- R68: a read returns the byte last written, a write changes only that byte, and a second write of it
changes nothing; a read changes nothing, since it is a value. -/
def Obligations.WriteChangesOnlyItsByte : Prop :=
  ∀ (s : State) (a : Addr) (b : Byte), s.memWf →
    (s.writeByte a b).readByte a = b ∧ Preserves { stored := [a] } s (s.writeByte a b) ∧
    (s.writeByte a b).writeByte a b = s.writeByte a b

/-- The model's canonical form: a write keeps it, and two memories that read alike are one list. -/
def Obligations.MemoryFormIsCanonical : Prop :=
  ∀ (font : Vector Byte 80) (m m' : Memory), Memory.wf font m = true → Memory.wf font m' = true →
    (∀ a < 4096, ∀ b, Memory.wf font (Memory.write font m a b) = true) ∧
    ((∀ a < 4096, Memory.read font m a = Memory.read font m' a) → m = m')

/-! ### Control flow -/

/-- R121: RET takes PC from the entry below the cursor, which stays as it was; with SP = 0 it raises
StackUnderflow. -/
def Obligations.RetPopsOrUnderflows : Prop :=
  ∀ (x : Nibble) (s : State),
    (∀ strict, decodeWord strict (0x0#4 ++ x ++ 0xEE#8) = .ok (.ret x)) ∧
    (∀ h : 0 < s.sp.val, ∃ t, exec (.ret x) s = .next t ∧ t.sp.val = s.sp.val - 1 ∧
      t.pc = s.stack[s.sp.val - 1] ∧ Preserves { sp := true, pc := true } s t) ∧
    (s.sp.val = 0 → ∃ t, exec (.ret x) s = .next t ∧ t.status = .halted ∧ t.pc = s.pc - 2 ∧
      t.fault.cause = .stackUnderflow ∧ t.fault.pc = s.pc - 2 ∧ t.fault.op = 0x0#4 ++ x ++ 0xEE#8 ∧
      t.events = s.events ++ [.diag (.stackFault .stackUnderflow (s.pc - 2) (0x0#4 ++ x ++ 0xEE#8))] ∧
      Preserves { pc := true, status := true, fault := true, events := true } s t)

/-- R124: CALL pushes the advanced PC and jumps; with SP = 12 it raises StackOverflow. -/
def Obligations.CallPushesOrOverflows : Prop :=
  ∀ (nnn : Addr) (s : State),
    (∀ strict, decodeWord strict (0x2#4 ++ nnn) = .ok (.call nnn)) ∧
    (s.sp.val < 12 → ∃ t, exec (.call nnn) s = .next t ∧ t.sp.val = s.sp.val + 1 ∧
      t.pc.toNat = nnn.toNat ∧
      (∀ (k : Nat) (h : k < 12), t.stack[k] = if k = s.sp.val then s.pc else s.stack[k]) ∧
      Preserves { stack := true, sp := true, pc := true } s t) ∧
    (s.sp.val = 12 → ∃ t, exec (.call nnn) s = .next t ∧ t.status = .halted ∧ t.pc = s.pc - 2 ∧
      t.fault.cause = .stackOverflow ∧ t.fault.pc = s.pc - 2 ∧ t.fault.op = 0x2#4 ++ nnn ∧
      t.events = s.events ++ [.diag (.stackFault .stackOverflow (s.pc - 2) (0x2#4 ++ nnn))] ∧
      Preserves { pc := true, status := true, fault := true, events := true } s t)

/-- R122: SYS reports itself as an unknown opcode, with its own address and word, and does nothing else. -/
def Obligations.SysIsReportedNoOp : Prop :=
  ∀ (nnn : Addr) (s : State),
    (nnn.toNat % 256 ≠ 0xE0 → nnn.toNat % 256 ≠ 0xEE →
      ∀ strict, decodeWord strict (0x0#4 ++ nnn) = .ok (.sys nnn)) ∧
    ∃ t, exec (.sys nnn) s = .next t ∧
      t.events = s.events ++ [.diag (.unknownOpcode (s.pc - 2) (0x0#4 ++ nnn))] ∧
      Preserves { events := true } s t

/-- R123, R138: JP goes to NNN, and JP V0 to NNN + V0 without a wrap; under P_JUMP_REG = VX the offset is
V[X] with X = op[11:8]. -/
def Obligations.JumpsSetPc : Prop :=
  ∀ (nnn : Addr) (s : State),
    (∀ strict, decodeWord strict (0x1#4 ++ nnn) = .ok (.jp nnn) ∧
      decodeWord strict (0xB#4 ++ nnn) = .ok (.jpV0 nnn)) ∧
    (∃ t, exec (.jp nnn) s = .next t ∧ t.pc.toNat = nnn.toNat ∧ Preserves { pc := true } s t) ∧
    ∃ t, exec (.jpV0 nnn) s = .next t ∧
      t.pc.toNat = nnn.toNat + (match s.cfg.jumpReg with
        | .v0 => s.readV 0x0#4
        | .vx => s.readV (BitVec.ofNat 4 (nnn.toNat / 256))).toNat ∧
      Preserves { pc := true } s t

/-- R128, R129: 3XNN skips the next two bytes when V[X] = NN, 4XNN when V[X] ≠ NN. -/
def Obligations.ImmediateSkipsCompare : Prop :=
  ∀ (x : Nibble) (nn : Byte) (s : State),
    (∀ strict, decodeWord strict (0x3#4 ++ x ++ nn) = .ok (.seImm x nn) ∧
      decodeWord strict (0x4#4 ++ x ++ nn) = .ok (.sneImm x nn)) ∧
    (∃ t, exec (.seImm x nn) s = .next t ∧
      t.pc.toNat = (if (s.readV x).toNat = nn.toNat then (s.pc.toNat + 2) % 65536 else s.pc.toNat) ∧
      Preserves { pc := true } s t) ∧
    ∃ t, exec (.sneImm x nn) s = .next t ∧
      t.pc.toNat = (if (s.readV x).toNat = nn.toNat then s.pc.toNat else (s.pc.toNat + 2) % 65536) ∧
      Preserves { pc := true } s t

/-- R130, R131: 5XYn skips when V[X] = V[Y], 9XYn when V[X] ≠ V[Y], for every n unless P_STRICT_5_9. -/
def Obligations.RegisterSkipsCompare : Prop :=
  ∀ (x y n : Nibble) (s : State),
    (∀ strict, strict = false ∨ n = 0x0#4 →
      decodeWord strict (0x5#4 ++ x ++ y ++ n) = .ok (.seReg x y n) ∧
      decodeWord strict (0x9#4 ++ x ++ y ++ n) = .ok (.sneReg x y n)) ∧
    (∃ t, exec (.seReg x y n) s = .next t ∧
      t.pc.toNat = (if (s.readV x).toNat = (s.readV y).toNat then (s.pc.toNat + 2) % 65536
        else s.pc.toNat) ∧
      Preserves { pc := true } s t) ∧
    ∃ t, exec (.sneReg x y n) s = .next t ∧
      t.pc.toNat = (if (s.readV x).toNat = (s.readV y).toNat then s.pc.toNat
        else (s.pc.toNat + 2) % 65536) ∧
      Preserves { pc := true } s t

/-- R125: a CALL at a with SP < 12, then a RET as the first instruction of its target, leaves PC = a + 2 and
SP as before the CALL. Of STACK only the entry at SP, now stale, differs: it holds a + 2 (R121, R124). -/
def Obligations.CallThenRetReturns : Prop :=
  ∀ (s t : State) (nnn : Addr) (x : Nibble), s.status = .running → s.fetchOk → s.current = .ok (.call nnn) →
    s.sp.val < 12 → step s = .next t → t.fetchOk → t.current = .ok (.ret x) →
    ∃ u, step t = .next u ∧ u.pc.toNat = (s.pc.toNat + 2) % 65536 ∧ u.sp = s.sp ∧
      (∀ (k : Nat) (h : k < 12), u.stack[k] = if k = s.sp.val then s.pc + 2 else s.stack[k]) ∧
      Preserves { pc := true, stack := true, events := true, fbWe := true } s u

/-! ### ALU -/

/-- R142, R143, R144: the loads and the immediate add, which sets no carry. -/
def Obligations.LoadsAndImmediateAdd : Prop :=
  ∀ (x y : Nibble) (nn : Byte) (s : State),
    (∀ strict, decodeWord strict (0x6#4 ++ x ++ nn) = .ok (.ldImm x nn) ∧
      decodeWord strict (0x7#4 ++ x ++ nn) = .ok (.addImm x nn) ∧
      decodeWord strict (0x8#4 ++ x ++ y ++ 0x0#4) = .ok (.ldReg x y)) ∧
    (∃ t, exec (.ldImm x nn) s = .next t ∧ t.readV x = nn ∧ Preserves { v := [x] } s t) ∧
    (∃ t, exec (.addImm x nn) s = .next t ∧
      (t.readV x).toNat = ((s.readV x).toNat + nn.toNat) % 256 ∧ Preserves { v := [x] } s t) ∧
    ∃ t, exec (.ldReg x y) s = .next t ∧ t.readV x = s.readV y ∧ Preserves { v := [x] } s t

/-- R145, R146, R147: OR, AND and XOR bit by bit, from the operands as they stood; VF is not written as a
flag, or is 0 after them under P_LOGIC_VF = cleared. -/
def Obligations.LogicOperationsBitwise : Prop :=
  ∀ (x y : Nibble) (s : State),
    (∀ strict, decodeWord strict (0x8#4 ++ x ++ y ++ 0x1#4) = .ok (.orReg x y) ∧
      decodeWord strict (0x8#4 ++ x ++ y ++ 0x2#4) = .ok (.andReg x y) ∧
      decodeWord strict (0x8#4 ++ x ++ y ++ 0x3#4) = .ok (.xorReg x y)) ∧
    ∀ (i : Instr) (f : Bool → Bool → Bool),
      (i = .orReg x y ∧ f = fun a b => a || b) ∨ (i = .andReg x y ∧ f = fun a b => a && b) ∨
        (i = .xorReg x y ∧ f = fun a b => a != b) →
      ∃ t, exec i s = .next t ∧
        (s.cfg.logicVF = .unchanged ∨ x ≠ 0xF#4 →
          ∀ b < 8, (t.readV x).getLsbD b = f ((s.readV x).getLsbD b) ((s.readV y).getLsbD b)) ∧
        (s.cfg.logicVF = .cleared → t.readV 0xF#4 = 0) ∧
        Preserves { v := if s.cfg.logicVF = .cleared then [x, 0xF#4] else [x] } s t

/-- R148: the sum mod 256, and then VF = 1 exactly when the 9-bit sum exceeds 255; with X = F the flag stays
(R141), and the operands are those before any write (R140). -/
def Obligations.AddSetsSumAndCarry : Prop :=
  ∀ (x y : Nibble) (s : State),
    (∀ strict, decodeWord strict (0x8#4 ++ x ++ y ++ 0x4#4) = .ok (.addReg x y)) ∧
    ∃ t, exec (.addReg x y) s = .next t ∧
      (x ≠ 0xF#4 → (t.readV x).toNat = ((s.readV x).toNat + (s.readV y).toNat) % 256) ∧
      (t.readV 0xF#4).toNat = (if (s.readV x).toNat + (s.readV y).toNat > 255 then 1 else 0) ∧
      Preserves { v := [x, 0xF#4] } s t

/-- R149, R151: the difference mod 256, and then the no-borrow flag; at equal operands VF is P_SUB_EQ_FLAG,
whose value 1 the spec's C2 settles. -/
def Obligations.SubtractsSetDifferenceAndNoBorrow : Prop :=
  ∀ (x y : Nibble) (s : State),
    (∀ strict, decodeWord strict (0x8#4 ++ x ++ y ++ 0x5#4) = .ok (.sub x y) ∧
      decodeWord strict (0x8#4 ++ x ++ y ++ 0x7#4) = .ok (.subn x y)) ∧
    standardConfig.subEqFlag = true ∧
    ∀ (i : Instr) (a b : Nat),
      (i = .sub x y ∧ a = (s.readV x).toNat ∧ b = (s.readV y).toNat) ∨
        (i = .subn x y ∧ a = (s.readV y).toNat ∧ b = (s.readV x).toNat) →
      ∃ t, exec i s = .next t ∧
        (x ≠ 0xF#4 → (t.readV x).toNat = (a + 256 - b) % 256) ∧
        (t.readV 0xF#4).toNat =
          (if a > b then 1 else if a = b then (if s.cfg.subEqFlag then 1 else 0) else 0) ∧
        Preserves { v := [x, 0xF#4] } s t

/-- R150, R152: the shifts by one of V[X] (V[Y] under P_SHIFT_SRC = VY), with the bit shifted out in VF. -/
def Obligations.ShiftsSetResultAndShiftedOutBit : Prop :=
  ∀ (x y : Nibble) (s : State) (v : Nat),
    v = (match s.cfg.shiftSrc with | .vx => s.readV x | .vy => s.readV y).toNat →
    (∀ strict, decodeWord strict (0x8#4 ++ x ++ y ++ 0x6#4) = .ok (.shr x y) ∧
      decodeWord strict (0x8#4 ++ x ++ y ++ 0xE#4) = .ok (.shl x y)) ∧
    (∃ t, exec (.shr x y) s = .next t ∧ (x ≠ 0xF#4 → (t.readV x).toNat = v / 2) ∧
      (t.readV 0xF#4).toNat = v % 2 ∧ Preserves { v := [x, 0xF#4] } s t) ∧
    ∃ t, exec (.shl x y) s = .next t ∧ (x ≠ 0xF#4 → (t.readV x).toNat = v * 2 % 256) ∧
      (t.readV 0xF#4).toNat = v / 128 ∧ Preserves { v := [x, 0xF#4] } s t

/-- R160: V[X] takes the byte on the random input, whatever it is, masked by NN; each execution takes one byte
(10_state.md R49). That the byte is the free value `Config.rndByte` of a counter in State is the model's way to
say so (notes/assumptions/1.md). -/
def Obligations.RandomLoadMasksTheDraw : Prop :=
  ∀ (x : Nibble) (nn : Byte) (s : State),
    (∀ strict, decodeWord strict (0xC#4 ++ x ++ nn) = .ok (.rnd x nn)) ∧
    ∃ t, exec (.rnd x nn) s = .next t ∧ t.draws = s.draws + 1 ∧
      (∀ b < 8, (t.readV x).getLsbD b = ((Config.rndByte s.draws).getLsbD b && nn.getLsbD b)) ∧
      Preserves { v := [x], draws := true } s t

/-! ### Index register and memory transfers -/

/-- R170, R172: I takes NNN, or grows by V[X] mod 65536; VF stays, and no event is presented. -/
def Obligations.IndexLoadAndAdd : Prop :=
  ∀ (nnn : Addr) (x : Nibble) (s : State),
    (∀ strict, decodeWord strict (0xA#4 ++ nnn) = .ok (.ldI nnn) ∧
      decodeWord strict (0xF#4 ++ x ++ 0x1E#8) = .ok (.addI x)) ∧
    (∃ t, exec (.ldI nnn) s = .next t ∧ t.i.toNat = nnn.toNat ∧ Preserves { i := true } s t) ∧
    ∃ t, exec (.addI x) s = .next t ∧ t.i.toNat = (s.i.toNat + (s.readV x).toNat) % 65536 ∧
      Preserves { i := true } s t

/-- R175: I takes the address of the glyph of V[X]'s low nibble, five bytes a glyph; under 93 U15's
alternative the whole byte counts. -/
def Obligations.FontAddressOfDigit : Prop :=
  ∀ (x : Nibble) (s : State),
    (∀ strict, decodeWord strict (0xF#4 ++ x ++ 0x29#8) = .ok (.ldF x)) ∧
    ∃ t, exec (.ldF x) s = .next t ∧
      t.i.toNat = 5 * (match s.cfg.fontDigit with
        | .lowNibble => (s.readV x).toNat % 16
        | .wholeByte => (s.readV x).toNat) ∧
      Preserves { i := true } s t

/-- R178: the three decimal digits of V[X] at EA(I), EA(I + 1), EA(I + 2), hundreds first; every address above
4095 is reported. -/
def Obligations.BcdStoresThreeDigits : Prop :=
  ∀ (x : Nibble) (s : State),
    (∀ strict, decodeWord strict (0xF#4 ++ x ++ 0x33#8) = .ok (.ldB x)) ∧
    (s.memWf → s.accessOk 3 →
      ∃ t, exec (.ldB x) s = .next t ∧
        (t.readByte (s.addrAtI 0)).toNat = (s.readV x).toNat / 100 ∧
        (t.readByte (s.addrAtI 1)).toNat = (s.readV x).toNat / 10 % 10 ∧
        (t.readByte (s.addrAtI 2)).toNat = (s.readV x).toNat % 10 ∧
        t.events = s.events ++ s.oobEvents 3 ∧
        Preserves { stored := [s.addrAtI 0, s.addrAtI 1, s.addrAtI 2], events := true } s t)

/-- R181: V[0..X] at EA(I + 0..X); I stays, or is I + X + 1 under P_LDST_INC_I; every address above 4095 is
reported, ascending. -/
def Obligations.RegisterStoreWritesRange : Prop :=
  ∀ (x : Nibble) (s : State),
    (∀ strict, decodeWord strict (0xF#4 ++ x ++ 0x55#8) = .ok (.stRegs x)) ∧
    (s.memWf → s.accessOk (x.toNat + 1) →
      ∃ t, exec (.stRegs x) s = .next t ∧
        (∀ k ≤ x.toNat, t.readByte (s.addrAtI k) = s.readV (BitVec.ofNat 4 k)) ∧
        t.i.toNat = (if s.cfg.ldstIncI then (s.i.toNat + x.toNat + 1) % 65536 else s.i.toNat) ∧
        t.events = s.events ++ s.oobEvents (x.toNat + 1) ∧
        Preserves { stored := (List.range (x.toNat + 1)).map s.addrAtI, i := true, events := true } s t)

/-- R184: V[0..X] from EA(I + 0..X); the registers above X stay; I and the reports as for the store. -/
def Obligations.RegisterLoadReadsRange : Prop :=
  ∀ (x : Nibble) (s : State),
    (∀ strict, decodeWord strict (0xF#4 ++ x ++ 0x65#8) = .ok (.ldRegs x)) ∧
    (s.accessOk (x.toNat + 1) →
      ∃ t, exec (.ldRegs x) s = .next t ∧
        (∀ k ≤ x.toNat, t.readV (BitVec.ofNat 4 k) = s.readByte (s.addrAtI k)) ∧
        t.i.toNat = (if s.cfg.ldstIncI then (s.i.toNat + x.toNat + 1) % 65536 else s.i.toNat) ∧
        t.events = s.events ++ s.oobEvents (x.toNat + 1) ∧
        Preserves { v := (List.range (x.toNat + 1)).map (BitVec.ofNat 4), i := true, events := true } s t)

/-- 43_index_memory.md R181, R184: what FX55 stored, FX65 with the same X from the same I loads back, whatever
the registers hold in between. -/
def Obligations.StoreThenLoadRestoresRegisters : Prop :=
  ∀ (x : Nibble) (s t u w : State), s.memWf → exec (.stRegs x) s = .next t →
    u.mem = t.mem → u.cfg = t.cfg → u.i = s.i → exec (.ldRegs x) u = .next w →
    ∀ k ≤ x.toNat, w.readV (BitVec.ofNat 4 k) = s.readV (BitVec.ofNat 4 k)

/-- 20_memory.md R75: bytes written by FX55 are the word of the next fetch there, with nothing in between. -/
def Obligations.StoredWordIsFetched : Prop :=
  ∀ (x : Nibble) (s t : State), s.memWf → 1 ≤ x.toNat → exec (.stRegs x) s = .next t →
    (t.setPc s.i).fetchWord.toNat = 256 * (s.readV 0x0#4).toNat + (s.readV 0x1#4).toNat

/-- 00_scope.md R9 (P_OOB = fault) and 93 U1, U4, U5: under the alternative policies the model stops, at the
first I-relative address above 4095, at a PC above 0x0FFE, and at a key number above 0x0F. That it stops
by a fault of its own, and not in a halted state, is the model's choice (notes/assumptions/5.md). -/
def Obligations.FaultPoliciesStop : Prop :=
  (∀ (s : State) (i : Instr) (n k : Nat), s.cfg.oob = .fault →
    (∃ x, i = .ldB x ∧ n = 3) ∨ (∃ x, i = .stRegs x ∧ n = x.toNat + 1) ∨
      (∃ x, i = .ldRegs x ∧ n = x.toNat + 1) ∨
      (∃ x y m, i = .drw x y m ∧ n = min m.toNat (32 - (s.readV y).toNat % 32)) →
    k < n → 4095 < s.i.toNat + k → (∀ j < k, s.i.toNat + j ≤ 4095) →
    exec i s = .fault (.memOutOfRange (s.i.toNat + k))) ∧
  (∀ s : State, s.cfg.oob = .fault → s.status = .running → 0x0FFE < s.pc.toNat →
    step s = .fault (.pcOutOfRange s.pc)) ∧
  ∀ (s : State) (x : Nibble), s.cfg.keyOob = .fault → 0x0F < (s.readV x).toNat →
    exec (.skp x) s = .fault (.keyOutOfRange (s.readV x)) ∧
    exec (.sknp x) s = .fault (.keyOutOfRange (s.readV x))

/-! ### Display -/

/-- R191: every pixel off, and DIRTY set, whatever was on; FB_WE is 1 for the step. -/
def Obligations.ClearTurnsEveryPixelOff : Prop :=
  ∀ (x : Nibble) (s : State),
    (∀ strict, decodeWord strict (0x0#4 ++ x ++ 0xE0#8) = .ok (.cls x)) ∧
    (Instr.cls x).writesDisplay = true ∧
    ∃ t, exec (.cls x) s = .next t ∧ (∀ px < 64, ∀ py < 32, t.pixel px py = false) ∧ t.dirty = true ∧
      Preserves { fb := true, dirty := true } s t

/-- R195: each pixel of the screen is XORed with the sprite's bit there, the sprite clipped at the right and
bottom edges; VF = 1 exactly when a pixel went from on to off, whatever X and Y are; DIRTY is set, and FB_WE
is 1 for the step; each row read above 4095 is reported, and clipped rows are not read. -/
def Obligations.DrawXorsClippedSprite : Prop :=
  ∀ (x y n : Nibble) (s : State),
    (∀ strict, decodeWord strict (0xD#4 ++ x ++ y ++ n) = .ok (.drw x y n)) ∧
    (Instr.drw x y n).writesDisplay = true ∧
    ∀ rows, rows = min n.toNat (32 - (s.readV y).toNat % 32) → s.accessOk rows →
      ∃ t, exec (.drw x y n) s = .next t ∧
        (∀ px < 64, ∀ py < 32, t.pixel px py = (s.pixel px py != s.spriteSets x y n px py)) ∧
        ((∃ px < 64, ∃ py < 32, s.pixel px py = true ∧ t.pixel px py = false) → t.readV 0xF#4 = 1) ∧
        ((∀ px < 64, ∀ py < 32, ¬(s.pixel px py = true ∧ t.pixel px py = false)) → t.readV 0xF#4 = 0) ∧
        t.dirty = true ∧ t.events = s.events ++ s.oobEvents rows ∧
        Preserves { v := [0xF#4], fb := true, dirty := true, events := true } s t

/-- 44_display.md R196: the same sprite drawn twice, with the same X, Y, N, V[X], V[Y], I and memory, leaves FB
as it was, and the second draw sets VF = 1 exactly when the first turned a pixel on. Assumes X ≠ F and
Y ≠ F, as R196 does. -/
def Obligations.DrawTwiceRestoresFramebuffer : Prop :=
  ∀ (x y n : Nibble) (s t u w : State), x ≠ 0xF#4 → y ≠ 0xF#4 → exec (.drw x y n) s = .next t →
    u.fb = t.fb → u.mem = t.mem → u.cfg = t.cfg → u.i = t.i → u.readV x = t.readV x →
    u.readV y = t.readV y → exec (.drw x y n) u = .next w →
    w.fb = s.fb ∧
    (w.readV 0xF#4 = 1 ↔ ∃ px < 64, ∃ py < 32, s.pixel px py = false ∧ t.pixel px py = true)

/-- 44_display.md R197: no wrap within a sprite. With its origin in column 63 a draw changes column 63 alone,
where bit 7 of a row decides; with its origin in row 31 it changes row 31 alone. -/
def Obligations.DrawAtEdgeIsClipped : Prop :=
  ∀ (x y n : Nibble) (s t : State) (px py : Nat), exec (.drw x y n) s = .next t → px < 64 → py < 32 →
    t.pixel px py ≠ s.pixel px py →
    (s.readV x).toNat % 64 ≤ px ∧ (s.readV y).toNat % 32 ≤ py ∧
    ((s.readV x).toNat % 64 = 63 → px = 63 ∧
      (s.readByte (s.addrAtI (py - (s.readV y).toNat % 32))).getLsbD 7 = true) ∧
    ((s.readV y).toNat % 32 = 31 → py = 31)

/-! ### Keypad and timers -/

/-- R210, R211, R212: EX9E skips when the key of V[X]'s low nibble is down, EXA1 when it is up; a V[X] above
0x0F is reported first. At the mask policy, the value R210 is written at, or for V[X] in range. -/
def Obligations.KeySkipsTestOneKey : Prop :=
  ∀ (x : Nibble) (s : State),
    (∀ strict, decodeWord strict (0xE#4 ++ x ++ 0x9E#8) = .ok (.skp x) ∧
      decodeWord strict (0xE#4 ++ x ++ 0xA1#8) = .ok (.sknp x)) ∧
    (s.cfg.keyOob = .mask ∨ (s.readV x).toNat ≤ 0x0F →
      ∀ (i : Instr) (d : Bool), (i = .skp x ∧ d = true) ∨ (i = .sknp x ∧ d = false) →
      ∃ t, exec i s = .next t ∧
        t.pc.toNat = (if s.keys.getLsbD ((s.readV x).toNat % 16) = d then (s.pc.toNat + 2) % 65536
          else s.pc.toNat) ∧
        t.events = s.events
          ++ (if (s.readV x).toNat > 0x0F then [.diag (.keyOob (s.readV x))] else []) ∧
        Preserves { pc := true, events := true } s t)

/-- R213: with no key down FX0A puts PC back by 2 and writes nothing else; else V[X] takes the lowest key that
is down, and PC stays advanced. -/
def Obligations.KeyWaitTakesLowestKey : Prop :=
  ∀ (x : Nibble) (s : State),
    (∀ strict, decodeWord strict (0xF#4 ++ x ++ 0x0A#8) = .ok (.ldVxK x)) ∧
    (s.keys = 0 → ∃ t, exec (.ldVxK x) s = .next t ∧
      t.pc.toNat = (s.pc.toNat + 65534) % 65536 ∧ Preserves { pc := true } s t) ∧
    (s.keys ≠ 0 → ∃ t, exec (.ldVxK x) s = .next t ∧ (t.readV x).toNat < 16 ∧
      s.keys.getLsbD (t.readV x).toNat = true ∧
      (∀ j < (t.readV x).toNat, s.keys.getLsbD j = false) ∧ Preserves { v := [x] } s t)

/-- 45_keypad_timers.md R214: with no key down, any number of steps at an FX0A leaves PC and every register;
once the host presses key k, the next step sets V[X] = k and PC = a + 2. -/
def Obligations.KeyWaitRepeatsUntilKey : Prop :=
  ∀ (x k : Nibble) (s : State) (n : Nat), s.status = .running → s.fetchOk → s.current = .ok (.ldVxK x) →
    s.keys = 0 →
    ∃ t u, core.run n s = .next t ∧ Preserves { events := true, fbWe := true } s t ∧
      step (t.key k true) = .next u ∧ (u.readV x).toNat = k.toNat ∧
      u.pc.toNat = (s.pc.toNat + 2) % 65536

/-- R215, R216, R217: FX07 reads DT, FX15 writes DT, FX18 writes ST, and so SOUND_ON (10_state.md R51). -/
def Obligations.TimerTransfers : Prop :=
  ∀ (x : Nibble) (s : State),
    (∀ strict, decodeWord strict (0xF#4 ++ x ++ 0x07#8) = .ok (.ldVxDt x) ∧
      decodeWord strict (0xF#4 ++ x ++ 0x15#8) = .ok (.ldDtVx x) ∧
      decodeWord strict (0xF#4 ++ x ++ 0x18#8) = .ok (.ldStVx x)) ∧
    (∃ t, exec (.ldVxDt x) s = .next t ∧ t.readV x = s.dt ∧ Preserves { v := [x] } s t) ∧
    (∃ t, exec (.ldDtVx x) s = .next t ∧ t.dt = s.readV x ∧ Preserves { dt := true } s t) ∧
    ∃ t, exec (.ldStVx x) s = .next t ∧ t.st = s.readV x ∧
      t.soundOn = decide ((s.readV x).toNat ≠ 0) ∧ Preserves { st := true } s t

/-- R250: with STATUS = Running a TICK takes one off each timer that is above zero; else it does nothing. -/
def Obligations.TickDecrementsBothTimers : Prop :=
  ∀ s : State,
    (s.status = .running → s.tick.dt.toNat = s.dt.toNat - 1 ∧ s.tick.st.toNat = s.st.toNat - 1 ∧
      Preserves { dt := true, st := true } s s.tick) ∧
    (s.status ≠ .running → s.tick = s)

/-- 60_exceptions.md R262: n TICKs with STATUS = Running take n off DT and off ST, stopping at 0: a timer at n
reaches 0 after exactly n of them and stays there. -/
def Obligations.TimersReachZeroAfterThatManyTicks : Prop :=
  ∀ (s : State) (n : Nat), s.status = .running →
    ∃ t, (Block.up s).run (List.replicate n .tick) = .next (.up t) ∧
      t.dt.toNat = s.dt.toNat - n ∧ t.st.toNat = s.st.toNat - n ∧
      Preserves { dt := true, st := true } s t

/-! ### Host interface and reset -/

/-- R46, R47: KEY sets one key's bit; PAUSE, RESUME and HALT move STATUS as the table of R32 says (92 D29 for
RESUME), and each leaves everything else. DIRTY_CLR (R48) clears DIRTY alone. That KEY and DIRTY_CLR act in
every STATUS, Halted included, is the model's reading (notes/assumptions/19.md). -/
def Obligations.HostInputsWriteOnlyTheirState : Prop :=
  ∀ (s : State) (k : Nibble) (b : Bool),
    (∃ t, s.react (.key k b) = .next (.up t) ∧ Preserves { keys := true } s t ∧
      ∀ j < 16, t.keys.getLsbD j = if j = k.toNat then b else s.keys.getLsbD j) ∧
    (∃ t, s.react .pause = .next (.up t) ∧ Preserves { status := true } s t ∧
      t.status = if s.status = .running then .paused else s.status) ∧
    (∃ t, s.react .resume = .next (.up t) ∧ Preserves { status := true } s t ∧
      t.status = if s.status = .paused then .running else s.status) ∧
    (∃ t, s.react .halt = .next (.up t) ∧ Preserves { status := true } s t ∧ t.status = .halted) ∧
    ∃ t, s.react .dirtyClr = .next (.up t) ∧ Preserves { dirty := true } s t ∧ t.dirty = false

/-- R40, R270, R272: INIT with a ROM of at most 3584 bytes, from any state, leaves FONT at 0..79, the ROM from
0x200 in file order, zero elsewhere, and every other piece of state at its value of R40. That the parameters are
a field, which stays, and that memory has a canonical form are the model's choices (notes/assumptions/3.md,
14.md). -/
def Obligations.InitBuildsResetState : Prop :=
  ∀ (s : State) (rom : List Byte), rom.length ≤ 3584 →
    ∃ t, s.react (.init (.bytes rom)) = .next (.up t) ∧
      (∀ a : Addr, t.readByte a =
        if a.toNat < 80 then s.cfg.font[a.toNat]?.getD 0
        else if a.toNat < 0x200 then 0 else rom.getD (a.toNat - 0x200) 0) ∧
      (∀ x, t.readV x = 0) ∧ t.i = 0 ∧ t.pc.toNat = 0x200 ∧ t.sp.val = 0 ∧
      (∀ (k : Nat) (h : k < 12), t.stack[k] = 0) ∧ t.dt = 0 ∧ t.st = 0 ∧ t.keys = 0 ∧
      (∀ px py, t.pixel px py = false) ∧ t.dirty = false ∧ t.status = .running ∧
      t.fault = { cause := .none, pc := 0, op := 0 } ∧ t.cfg = s.cfg ∧ t.memWf

/-- R273: a missing ROM and one of more than 3584 bytes fail INIT with their cause (and the sizes); no machine
state exists then, and no STEP or TICK is admitted until an INIT that succeeds. -/
def Obligations.StartupFaultsLeaveNoState : Prop :=
  ∀ (s : State) (rom : List Byte), 3584 < rom.length →
    s.react (.init .missing) = .next (.absent .missingOrUnreadable s.cfg s.draws) ∧
    s.react (.init (.bytes rom)) = .next (.absent (.oversize rom.length 3584) s.cfg s.draws) ∧
    ∀ (why : StartupFault) (es : List HostEvent), (∀ r, .init r ∉ es) →
      (Block.absent why s.cfg s.draws).run es = .next (.absent why s.cfg s.draws)

/-- The state after reset is that of INIT with an empty ROM at the spec's parameters (10_state.md R40;
70_reset_and_hazards.md R272), and glyph 0 and glyph F of 20_memory.md R64 stand in it. -/
def Obligations.ResetIsInitOfEmptyRom : Prop :=
  initialise standardConfig 0 (.bytes []) = .ok State.reset ∧
  State.reset.pc = 0x200 ∧ State.reset.sp.val = 0 ∧ State.reset.status = .running ∧
  [0, 1, 2, 3, 4].map (fun a => (State.reset.readByte (BitVec.ofNat 12 a)).toNat)
    = [0xF0, 0x90, 0x90, 0x90, 0xF0] ∧
  [75, 76, 77, 78, 79].map (fun a => (State.reset.readByte (BitVec.ofNat 12 a)).toNat)
    = [0xF0, 0x80, 0xF0, 0x80, 0x80]
end

