-- ==== Sys2Proof/Laws/State.lean ====
section
/-! SUPPORT. One lemma per field and update of State, each true by rfl, so that no proof unfolds a record update. -/

namespace Sys2Proof.Machine

section
variable (s : State)

/-! ### `State.writeByte` -/

@[simp] theorem State.writeByte_mem (a : Addr) (b : Byte) :
    (s.writeByte a b).mem = Memory.write s.cfg.font s.mem a.toNat b := rfl
@[simp] theorem State.writeByte_v (a : Addr) (b : Byte) : (s.writeByte a b).v = s.v := rfl
@[simp] theorem State.writeByte_i (a : Addr) (b : Byte) : (s.writeByte a b).i = s.i := rfl
@[simp] theorem State.writeByte_pc (a : Addr) (b : Byte) : (s.writeByte a b).pc = s.pc := rfl
@[simp] theorem State.writeByte_stack (a : Addr) (b : Byte) : (s.writeByte a b).stack = s.stack := rfl
@[simp] theorem State.writeByte_sp (a : Addr) (b : Byte) : (s.writeByte a b).sp = s.sp := rfl
@[simp] theorem State.writeByte_dt (a : Addr) (b : Byte) : (s.writeByte a b).dt = s.dt := rfl
@[simp] theorem State.writeByte_st (a : Addr) (b : Byte) : (s.writeByte a b).st = s.st := rfl
@[simp] theorem State.writeByte_keys (a : Addr) (b : Byte) : (s.writeByte a b).keys = s.keys := rfl
@[simp] theorem State.writeByte_fb (a : Addr) (b : Byte) : (s.writeByte a b).fb = s.fb := rfl
@[simp] theorem State.writeByte_dirty (a : Addr) (b : Byte) : (s.writeByte a b).dirty = s.dirty := rfl
@[simp] theorem State.writeByte_status (a : Addr) (b : Byte) : (s.writeByte a b).status = s.status := rfl
@[simp] theorem State.writeByte_fault (a : Addr) (b : Byte) : (s.writeByte a b).fault = s.fault := rfl
@[simp] theorem State.writeByte_fbWe (a : Addr) (b : Byte) : (s.writeByte a b).fbWe = s.fbWe := rfl
@[simp] theorem State.writeByte_events (a : Addr) (b : Byte) : (s.writeByte a b).events = s.events := rfl
@[simp] theorem State.writeByte_draws (a : Addr) (b : Byte) : (s.writeByte a b).draws = s.draws := rfl
@[simp] theorem State.writeByte_cfg (a : Addr) (b : Byte) : (s.writeByte a b).cfg = s.cfg := rfl

/-! ### `State.setV` -/

@[simp] theorem State.setV_mem (x : Nibble) (b : Byte) : (s.setV x b).mem = s.mem := rfl
@[simp] theorem State.setV_v (x : Nibble) (b : Byte) :
    (s.setV x b).v = s.v.set x.toNat b (nibble_lt_sixteen x) := rfl
@[simp] theorem State.setV_i (x : Nibble) (b : Byte) : (s.setV x b).i = s.i := rfl
@[simp] theorem State.setV_pc (x : Nibble) (b : Byte) : (s.setV x b).pc = s.pc := rfl
@[simp] theorem State.setV_stack (x : Nibble) (b : Byte) : (s.setV x b).stack = s.stack := rfl
@[simp] theorem State.setV_sp (x : Nibble) (b : Byte) : (s.setV x b).sp = s.sp := rfl
@[simp] theorem State.setV_dt (x : Nibble) (b : Byte) : (s.setV x b).dt = s.dt := rfl
@[simp] theorem State.setV_st (x : Nibble) (b : Byte) : (s.setV x b).st = s.st := rfl
@[simp] theorem State.setV_keys (x : Nibble) (b : Byte) : (s.setV x b).keys = s.keys := rfl
@[simp] theorem State.setV_fb (x : Nibble) (b : Byte) : (s.setV x b).fb = s.fb := rfl
@[simp] theorem State.setV_dirty (x : Nibble) (b : Byte) : (s.setV x b).dirty = s.dirty := rfl
@[simp] theorem State.setV_status (x : Nibble) (b : Byte) : (s.setV x b).status = s.status := rfl
@[simp] theorem State.setV_fault (x : Nibble) (b : Byte) : (s.setV x b).fault = s.fault := rfl
@[simp] theorem State.setV_fbWe (x : Nibble) (b : Byte) : (s.setV x b).fbWe = s.fbWe := rfl
@[simp] theorem State.setV_events (x : Nibble) (b : Byte) : (s.setV x b).events = s.events := rfl
@[simp] theorem State.setV_draws (x : Nibble) (b : Byte) : (s.setV x b).draws = s.draws := rfl
@[simp] theorem State.setV_cfg (x : Nibble) (b : Byte) : (s.setV x b).cfg = s.cfg := rfl

/-! ### `State.setI` -/

@[simp] theorem State.setI_mem (w : Word) : (s.setI w).mem = s.mem := rfl
@[simp] theorem State.setI_v (w : Word) : (s.setI w).v = s.v := rfl
@[simp] theorem State.setI_i (w : Word) : (s.setI w).i = w := rfl
@[simp] theorem State.setI_pc (w : Word) : (s.setI w).pc = s.pc := rfl
@[simp] theorem State.setI_stack (w : Word) : (s.setI w).stack = s.stack := rfl
@[simp] theorem State.setI_sp (w : Word) : (s.setI w).sp = s.sp := rfl
@[simp] theorem State.setI_dt (w : Word) : (s.setI w).dt = s.dt := rfl
@[simp] theorem State.setI_st (w : Word) : (s.setI w).st = s.st := rfl
@[simp] theorem State.setI_keys (w : Word) : (s.setI w).keys = s.keys := rfl
@[simp] theorem State.setI_fb (w : Word) : (s.setI w).fb = s.fb := rfl
@[simp] theorem State.setI_dirty (w : Word) : (s.setI w).dirty = s.dirty := rfl
@[simp] theorem State.setI_status (w : Word) : (s.setI w).status = s.status := rfl
@[simp] theorem State.setI_fault (w : Word) : (s.setI w).fault = s.fault := rfl
@[simp] theorem State.setI_fbWe (w : Word) : (s.setI w).fbWe = s.fbWe := rfl
@[simp] theorem State.setI_events (w : Word) : (s.setI w).events = s.events := rfl
@[simp] theorem State.setI_draws (w : Word) : (s.setI w).draws = s.draws := rfl
@[simp] theorem State.setI_cfg (w : Word) : (s.setI w).cfg = s.cfg := rfl

/-! ### `State.setPc` -/

@[simp] theorem State.setPc_mem (w : Word) : (s.setPc w).mem = s.mem := rfl
@[simp] theorem State.setPc_v (w : Word) : (s.setPc w).v = s.v := rfl
@[simp] theorem State.setPc_i (w : Word) : (s.setPc w).i = s.i := rfl
@[simp] theorem State.setPc_pc (w : Word) : (s.setPc w).pc = w := rfl
@[simp] theorem State.setPc_stack (w : Word) : (s.setPc w).stack = s.stack := rfl
@[simp] theorem State.setPc_sp (w : Word) : (s.setPc w).sp = s.sp := rfl
@[simp] theorem State.setPc_dt (w : Word) : (s.setPc w).dt = s.dt := rfl
@[simp] theorem State.setPc_st (w : Word) : (s.setPc w).st = s.st := rfl
@[simp] theorem State.setPc_keys (w : Word) : (s.setPc w).keys = s.keys := rfl
@[simp] theorem State.setPc_fb (w : Word) : (s.setPc w).fb = s.fb := rfl
@[simp] theorem State.setPc_dirty (w : Word) : (s.setPc w).dirty = s.dirty := rfl
@[simp] theorem State.setPc_status (w : Word) : (s.setPc w).status = s.status := rfl
@[simp] theorem State.setPc_fault (w : Word) : (s.setPc w).fault = s.fault := rfl
@[simp] theorem State.setPc_fbWe (w : Word) : (s.setPc w).fbWe = s.fbWe := rfl
@[simp] theorem State.setPc_events (w : Word) : (s.setPc w).events = s.events := rfl
@[simp] theorem State.setPc_draws (w : Word) : (s.setPc w).draws = s.draws := rfl
@[simp] theorem State.setPc_cfg (w : Word) : (s.setPc w).cfg = s.cfg := rfl

/-! ### `State.setDt` -/

@[simp] theorem State.setDt_mem (b : Byte) : (s.setDt b).mem = s.mem := rfl
@[simp] theorem State.setDt_v (b : Byte) : (s.setDt b).v = s.v := rfl
@[simp] theorem State.setDt_i (b : Byte) : (s.setDt b).i = s.i := rfl
@[simp] theorem State.setDt_pc (b : Byte) : (s.setDt b).pc = s.pc := rfl
@[simp] theorem State.setDt_stack (b : Byte) : (s.setDt b).stack = s.stack := rfl
@[simp] theorem State.setDt_sp (b : Byte) : (s.setDt b).sp = s.sp := rfl
@[simp] theorem State.setDt_dt (b : Byte) : (s.setDt b).dt = b := rfl
@[simp] theorem State.setDt_st (b : Byte) : (s.setDt b).st = s.st := rfl
@[simp] theorem State.setDt_keys (b : Byte) : (s.setDt b).keys = s.keys := rfl
@[simp] theorem State.setDt_fb (b : Byte) : (s.setDt b).fb = s.fb := rfl
@[simp] theorem State.setDt_dirty (b : Byte) : (s.setDt b).dirty = s.dirty := rfl
@[simp] theorem State.setDt_status (b : Byte) : (s.setDt b).status = s.status := rfl
@[simp] theorem State.setDt_fault (b : Byte) : (s.setDt b).fault = s.fault := rfl
@[simp] theorem State.setDt_fbWe (b : Byte) : (s.setDt b).fbWe = s.fbWe := rfl
@[simp] theorem State.setDt_events (b : Byte) : (s.setDt b).events = s.events := rfl
@[simp] theorem State.setDt_draws (b : Byte) : (s.setDt b).draws = s.draws := rfl
@[simp] theorem State.setDt_cfg (b : Byte) : (s.setDt b).cfg = s.cfg := rfl

/-! ### `State.setSt` -/

@[simp] theorem State.setSt_mem (b : Byte) : (s.setSt b).mem = s.mem := rfl
@[simp] theorem State.setSt_v (b : Byte) : (s.setSt b).v = s.v := rfl
@[simp] theorem State.setSt_i (b : Byte) : (s.setSt b).i = s.i := rfl
@[simp] theorem State.setSt_pc (b : Byte) : (s.setSt b).pc = s.pc := rfl
@[simp] theorem State.setSt_stack (b : Byte) : (s.setSt b).stack = s.stack := rfl
@[simp] theorem State.setSt_sp (b : Byte) : (s.setSt b).sp = s.sp := rfl
@[simp] theorem State.setSt_dt (b : Byte) : (s.setSt b).dt = s.dt := rfl
@[simp] theorem State.setSt_st (b : Byte) : (s.setSt b).st = b := rfl
@[simp] theorem State.setSt_keys (b : Byte) : (s.setSt b).keys = s.keys := rfl
@[simp] theorem State.setSt_fb (b : Byte) : (s.setSt b).fb = s.fb := rfl
@[simp] theorem State.setSt_dirty (b : Byte) : (s.setSt b).dirty = s.dirty := rfl
@[simp] theorem State.setSt_status (b : Byte) : (s.setSt b).status = s.status := rfl
@[simp] theorem State.setSt_fault (b : Byte) : (s.setSt b).fault = s.fault := rfl
@[simp] theorem State.setSt_fbWe (b : Byte) : (s.setSt b).fbWe = s.fbWe := rfl
@[simp] theorem State.setSt_events (b : Byte) : (s.setSt b).events = s.events := rfl
@[simp] theorem State.setSt_draws (b : Byte) : (s.setSt b).draws = s.draws := rfl
@[simp] theorem State.setSt_cfg (b : Byte) : (s.setSt b).cfg = s.cfg := rfl

/-! ### `State.setStatus` -/

@[simp] theorem State.setStatus_mem (x : Status) : (s.setStatus x).mem = s.mem := rfl
@[simp] theorem State.setStatus_v (x : Status) : (s.setStatus x).v = s.v := rfl
@[simp] theorem State.setStatus_i (x : Status) : (s.setStatus x).i = s.i := rfl
@[simp] theorem State.setStatus_pc (x : Status) : (s.setStatus x).pc = s.pc := rfl
@[simp] theorem State.setStatus_stack (x : Status) : (s.setStatus x).stack = s.stack := rfl
@[simp] theorem State.setStatus_sp (x : Status) : (s.setStatus x).sp = s.sp := rfl
@[simp] theorem State.setStatus_dt (x : Status) : (s.setStatus x).dt = s.dt := rfl
@[simp] theorem State.setStatus_st (x : Status) : (s.setStatus x).st = s.st := rfl
@[simp] theorem State.setStatus_keys (x : Status) : (s.setStatus x).keys = s.keys := rfl
@[simp] theorem State.setStatus_fb (x : Status) : (s.setStatus x).fb = s.fb := rfl
@[simp] theorem State.setStatus_dirty (x : Status) : (s.setStatus x).dirty = s.dirty := rfl
@[simp] theorem State.setStatus_status (x : Status) : (s.setStatus x).status = x := rfl
@[simp] theorem State.setStatus_fault (x : Status) : (s.setStatus x).fault = s.fault := rfl
@[simp] theorem State.setStatus_fbWe (x : Status) : (s.setStatus x).fbWe = s.fbWe := rfl
@[simp] theorem State.setStatus_events (x : Status) : (s.setStatus x).events = s.events := rfl
@[simp] theorem State.setStatus_draws (x : Status) : (s.setStatus x).draws = s.draws := rfl
@[simp] theorem State.setStatus_cfg (x : Status) : (s.setStatus x).cfg = s.cfg := rfl

/-! ### `State.setFault` -/

@[simp] theorem State.setFault_mem (f : FaultRecord) : (s.setFault f).mem = s.mem := rfl
@[simp] theorem State.setFault_v (f : FaultRecord) : (s.setFault f).v = s.v := rfl
@[simp] theorem State.setFault_i (f : FaultRecord) : (s.setFault f).i = s.i := rfl
@[simp] theorem State.setFault_pc (f : FaultRecord) : (s.setFault f).pc = s.pc := rfl
@[simp] theorem State.setFault_stack (f : FaultRecord) : (s.setFault f).stack = s.stack := rfl
@[simp] theorem State.setFault_sp (f : FaultRecord) : (s.setFault f).sp = s.sp := rfl
@[simp] theorem State.setFault_dt (f : FaultRecord) : (s.setFault f).dt = s.dt := rfl
@[simp] theorem State.setFault_st (f : FaultRecord) : (s.setFault f).st = s.st := rfl
@[simp] theorem State.setFault_keys (f : FaultRecord) : (s.setFault f).keys = s.keys := rfl
@[simp] theorem State.setFault_fb (f : FaultRecord) : (s.setFault f).fb = s.fb := rfl
@[simp] theorem State.setFault_dirty (f : FaultRecord) : (s.setFault f).dirty = s.dirty := rfl
@[simp] theorem State.setFault_status (f : FaultRecord) : (s.setFault f).status = s.status := rfl
@[simp] theorem State.setFault_fault (f : FaultRecord) : (s.setFault f).fault = f := rfl
@[simp] theorem State.setFault_fbWe (f : FaultRecord) : (s.setFault f).fbWe = s.fbWe := rfl
@[simp] theorem State.setFault_events (f : FaultRecord) : (s.setFault f).events = s.events := rfl
@[simp] theorem State.setFault_draws (f : FaultRecord) : (s.setFault f).draws = s.draws := rfl
@[simp] theorem State.setFault_cfg (f : FaultRecord) : (s.setFault f).cfg = s.cfg := rfl

/-! ### `State.push` -/

@[simp] theorem State.push_mem (w : Word) (h : s.sp.val < 12) : (s.push w h).mem = s.mem := rfl
@[simp] theorem State.push_v (w : Word) (h : s.sp.val < 12) : (s.push w h).v = s.v := rfl
@[simp] theorem State.push_i (w : Word) (h : s.sp.val < 12) : (s.push w h).i = s.i := rfl
@[simp] theorem State.push_pc (w : Word) (h : s.sp.val < 12) : (s.push w h).pc = s.pc := rfl
@[simp] theorem State.push_stack (w : Word) (h : s.sp.val < 12) :
    (s.push w h).stack = s.stack.set s.sp.val w h := rfl
@[simp] theorem State.push_sp (w : Word) (h : s.sp.val < 12) :
    (s.push w h).sp = ⟨s.sp.val + 1, by omega⟩ := rfl
@[simp] theorem State.push_dt (w : Word) (h : s.sp.val < 12) : (s.push w h).dt = s.dt := rfl
@[simp] theorem State.push_st (w : Word) (h : s.sp.val < 12) : (s.push w h).st = s.st := rfl
@[simp] theorem State.push_keys (w : Word) (h : s.sp.val < 12) : (s.push w h).keys = s.keys := rfl
@[simp] theorem State.push_fb (w : Word) (h : s.sp.val < 12) : (s.push w h).fb = s.fb := rfl
@[simp] theorem State.push_dirty (w : Word) (h : s.sp.val < 12) : (s.push w h).dirty = s.dirty := rfl
@[simp] theorem State.push_status (w : Word) (h : s.sp.val < 12) : (s.push w h).status = s.status := rfl
@[simp] theorem State.push_fault (w : Word) (h : s.sp.val < 12) : (s.push w h).fault = s.fault := rfl
@[simp] theorem State.push_fbWe (w : Word) (h : s.sp.val < 12) : (s.push w h).fbWe = s.fbWe := rfl
@[simp] theorem State.push_events (w : Word) (h : s.sp.val < 12) : (s.push w h).events = s.events := rfl
@[simp] theorem State.push_draws (w : Word) (h : s.sp.val < 12) : (s.push w h).draws = s.draws := rfl
@[simp] theorem State.push_cfg (w : Word) (h : s.sp.val < 12) : (s.push w h).cfg = s.cfg := rfl

/-! ### `State.popToPc` -/

@[simp] theorem State.popToPc_mem (h : 0 < s.sp.val) : (s.popToPc h).mem = s.mem := rfl
@[simp] theorem State.popToPc_v (h : 0 < s.sp.val) : (s.popToPc h).v = s.v := rfl
@[simp] theorem State.popToPc_i (h : 0 < s.sp.val) : (s.popToPc h).i = s.i := rfl
@[simp] theorem State.popToPc_pc (h : 0 < s.sp.val) :
    (s.popToPc h).pc = s.stack[s.sp.val - 1]'(by omega) := rfl
@[simp] theorem State.popToPc_stack (h : 0 < s.sp.val) : (s.popToPc h).stack = s.stack := rfl
@[simp] theorem State.popToPc_sp (h : 0 < s.sp.val) : (s.popToPc h).sp = ⟨s.sp.val - 1, by omega⟩ := rfl
@[simp] theorem State.popToPc_dt (h : 0 < s.sp.val) : (s.popToPc h).dt = s.dt := rfl
@[simp] theorem State.popToPc_st (h : 0 < s.sp.val) : (s.popToPc h).st = s.st := rfl
@[simp] theorem State.popToPc_keys (h : 0 < s.sp.val) : (s.popToPc h).keys = s.keys := rfl
@[simp] theorem State.popToPc_fb (h : 0 < s.sp.val) : (s.popToPc h).fb = s.fb := rfl
@[simp] theorem State.popToPc_dirty (h : 0 < s.sp.val) : (s.popToPc h).dirty = s.dirty := rfl
@[simp] theorem State.popToPc_status (h : 0 < s.sp.val) : (s.popToPc h).status = s.status := rfl
@[simp] theorem State.popToPc_fault (h : 0 < s.sp.val) : (s.popToPc h).fault = s.fault := rfl
@[simp] theorem State.popToPc_fbWe (h : 0 < s.sp.val) : (s.popToPc h).fbWe = s.fbWe := rfl
@[simp] theorem State.popToPc_events (h : 0 < s.sp.val) : (s.popToPc h).events = s.events := rfl
@[simp] theorem State.popToPc_draws (h : 0 < s.sp.val) : (s.popToPc h).draws = s.draws := rfl
@[simp] theorem State.popToPc_cfg (h : 0 < s.sp.val) : (s.popToPc h).cfg = s.cfg := rfl

/-! ### `State.paint` -/

@[simp] theorem State.paint_mem (fb : Framebuffer) : (s.paint fb).mem = s.mem := rfl
@[simp] theorem State.paint_v (fb : Framebuffer) : (s.paint fb).v = s.v := rfl
@[simp] theorem State.paint_i (fb : Framebuffer) : (s.paint fb).i = s.i := rfl
@[simp] theorem State.paint_pc (fb : Framebuffer) : (s.paint fb).pc = s.pc := rfl
@[simp] theorem State.paint_stack (fb : Framebuffer) : (s.paint fb).stack = s.stack := rfl
@[simp] theorem State.paint_sp (fb : Framebuffer) : (s.paint fb).sp = s.sp := rfl
@[simp] theorem State.paint_dt (fb : Framebuffer) : (s.paint fb).dt = s.dt := rfl
@[simp] theorem State.paint_st (fb : Framebuffer) : (s.paint fb).st = s.st := rfl
@[simp] theorem State.paint_keys (fb : Framebuffer) : (s.paint fb).keys = s.keys := rfl
@[simp] theorem State.paint_fb (fb : Framebuffer) : (s.paint fb).fb = fb := rfl
@[simp] theorem State.paint_dirty (fb : Framebuffer) : (s.paint fb).dirty = true := rfl
@[simp] theorem State.paint_status (fb : Framebuffer) : (s.paint fb).status = s.status := rfl
@[simp] theorem State.paint_fault (fb : Framebuffer) : (s.paint fb).fault = s.fault := rfl
@[simp] theorem State.paint_fbWe (fb : Framebuffer) : (s.paint fb).fbWe = s.fbWe := rfl
@[simp] theorem State.paint_events (fb : Framebuffer) : (s.paint fb).events = s.events := rfl
@[simp] theorem State.paint_draws (fb : Framebuffer) : (s.paint fb).draws = s.draws := rfl
@[simp] theorem State.paint_cfg (fb : Framebuffer) : (s.paint fb).cfg = s.cfg := rfl

/-! ### `State.setDirty` -/

@[simp] theorem State.setDirty_mem (b : Bool) : (s.setDirty b).mem = s.mem := rfl
@[simp] theorem State.setDirty_v (b : Bool) : (s.setDirty b).v = s.v := rfl
@[simp] theorem State.setDirty_i (b : Bool) : (s.setDirty b).i = s.i := rfl
@[simp] theorem State.setDirty_pc (b : Bool) : (s.setDirty b).pc = s.pc := rfl
@[simp] theorem State.setDirty_stack (b : Bool) : (s.setDirty b).stack = s.stack := rfl
@[simp] theorem State.setDirty_sp (b : Bool) : (s.setDirty b).sp = s.sp := rfl
@[simp] theorem State.setDirty_dt (b : Bool) : (s.setDirty b).dt = s.dt := rfl
@[simp] theorem State.setDirty_st (b : Bool) : (s.setDirty b).st = s.st := rfl
@[simp] theorem State.setDirty_keys (b : Bool) : (s.setDirty b).keys = s.keys := rfl
@[simp] theorem State.setDirty_fb (b : Bool) : (s.setDirty b).fb = s.fb := rfl
@[simp] theorem State.setDirty_dirty (b : Bool) : (s.setDirty b).dirty = b := rfl
@[simp] theorem State.setDirty_status (b : Bool) : (s.setDirty b).status = s.status := rfl
@[simp] theorem State.setDirty_fault (b : Bool) : (s.setDirty b).fault = s.fault := rfl
@[simp] theorem State.setDirty_fbWe (b : Bool) : (s.setDirty b).fbWe = s.fbWe := rfl
@[simp] theorem State.setDirty_events (b : Bool) : (s.setDirty b).events = s.events := rfl
@[simp] theorem State.setDirty_draws (b : Bool) : (s.setDirty b).draws = s.draws := rfl
@[simp] theorem State.setDirty_cfg (b : Bool) : (s.setDirty b).cfg = s.cfg := rfl

/-! ### `State.setFbWe` -/

@[simp] theorem State.setFbWe_mem (b : Bool) : (s.setFbWe b).mem = s.mem := rfl
@[simp] theorem State.setFbWe_v (b : Bool) : (s.setFbWe b).v = s.v := rfl
@[simp] theorem State.setFbWe_i (b : Bool) : (s.setFbWe b).i = s.i := rfl
@[simp] theorem State.setFbWe_pc (b : Bool) : (s.setFbWe b).pc = s.pc := rfl
@[simp] theorem State.setFbWe_stack (b : Bool) : (s.setFbWe b).stack = s.stack := rfl
@[simp] theorem State.setFbWe_sp (b : Bool) : (s.setFbWe b).sp = s.sp := rfl
@[simp] theorem State.setFbWe_dt (b : Bool) : (s.setFbWe b).dt = s.dt := rfl
@[simp] theorem State.setFbWe_st (b : Bool) : (s.setFbWe b).st = s.st := rfl
@[simp] theorem State.setFbWe_keys (b : Bool) : (s.setFbWe b).keys = s.keys := rfl
@[simp] theorem State.setFbWe_fb (b : Bool) : (s.setFbWe b).fb = s.fb := rfl
@[simp] theorem State.setFbWe_dirty (b : Bool) : (s.setFbWe b).dirty = s.dirty := rfl
@[simp] theorem State.setFbWe_status (b : Bool) : (s.setFbWe b).status = s.status := rfl
@[simp] theorem State.setFbWe_fault (b : Bool) : (s.setFbWe b).fault = s.fault := rfl
@[simp] theorem State.setFbWe_fbWe (b : Bool) : (s.setFbWe b).fbWe = b := rfl
@[simp] theorem State.setFbWe_events (b : Bool) : (s.setFbWe b).events = s.events := rfl
@[simp] theorem State.setFbWe_draws (b : Bool) : (s.setFbWe b).draws = s.draws := rfl
@[simp] theorem State.setFbWe_cfg (b : Bool) : (s.setFbWe b).cfg = s.cfg := rfl

/-! ### `State.emit` -/

@[simp] theorem State.emit_mem (os : List Output) : (s.emit os).mem = s.mem := rfl
@[simp] theorem State.emit_v (os : List Output) : (s.emit os).v = s.v := rfl
@[simp] theorem State.emit_i (os : List Output) : (s.emit os).i = s.i := rfl
@[simp] theorem State.emit_pc (os : List Output) : (s.emit os).pc = s.pc := rfl
@[simp] theorem State.emit_stack (os : List Output) : (s.emit os).stack = s.stack := rfl
@[simp] theorem State.emit_sp (os : List Output) : (s.emit os).sp = s.sp := rfl
@[simp] theorem State.emit_dt (os : List Output) : (s.emit os).dt = s.dt := rfl
@[simp] theorem State.emit_st (os : List Output) : (s.emit os).st = s.st := rfl
@[simp] theorem State.emit_keys (os : List Output) : (s.emit os).keys = s.keys := rfl
@[simp] theorem State.emit_fb (os : List Output) : (s.emit os).fb = s.fb := rfl
@[simp] theorem State.emit_dirty (os : List Output) : (s.emit os).dirty = s.dirty := rfl
@[simp] theorem State.emit_status (os : List Output) : (s.emit os).status = s.status := rfl
@[simp] theorem State.emit_fault (os : List Output) : (s.emit os).fault = s.fault := rfl
@[simp] theorem State.emit_fbWe (os : List Output) : (s.emit os).fbWe = s.fbWe := rfl
@[simp] theorem State.emit_events (os : List Output) : (s.emit os).events = s.events ++ os := rfl
@[simp] theorem State.emit_draws (os : List Output) : (s.emit os).draws = s.draws := rfl
@[simp] theorem State.emit_cfg (os : List Output) : (s.emit os).cfg = s.cfg := rfl

/-! ### `State.report` -/

@[simp] theorem State.report_mem (d : Diag) : (s.report d).mem = s.mem := rfl
@[simp] theorem State.report_v (d : Diag) : (s.report d).v = s.v := rfl
@[simp] theorem State.report_i (d : Diag) : (s.report d).i = s.i := rfl
@[simp] theorem State.report_pc (d : Diag) : (s.report d).pc = s.pc := rfl
@[simp] theorem State.report_stack (d : Diag) : (s.report d).stack = s.stack := rfl
@[simp] theorem State.report_sp (d : Diag) : (s.report d).sp = s.sp := rfl
@[simp] theorem State.report_dt (d : Diag) : (s.report d).dt = s.dt := rfl
@[simp] theorem State.report_st (d : Diag) : (s.report d).st = s.st := rfl
@[simp] theorem State.report_keys (d : Diag) : (s.report d).keys = s.keys := rfl
@[simp] theorem State.report_fb (d : Diag) : (s.report d).fb = s.fb := rfl
@[simp] theorem State.report_dirty (d : Diag) : (s.report d).dirty = s.dirty := rfl
@[simp] theorem State.report_status (d : Diag) : (s.report d).status = s.status := rfl
@[simp] theorem State.report_fault (d : Diag) : (s.report d).fault = s.fault := rfl
@[simp] theorem State.report_fbWe (d : Diag) : (s.report d).fbWe = s.fbWe := rfl
@[simp] theorem State.report_events (d : Diag) : (s.report d).events = s.events ++ [.diag d] := rfl
@[simp] theorem State.report_draws (d : Diag) : (s.report d).draws = s.draws := rfl
@[simp] theorem State.report_cfg (d : Diag) : (s.report d).cfg = s.cfg := rfl

/-! ### `State.takeRnd` -/

@[simp] theorem State.takeRnd_mem : (s.takeRnd).mem = s.mem := rfl
@[simp] theorem State.takeRnd_v : (s.takeRnd).v = s.v := rfl
@[simp] theorem State.takeRnd_i : (s.takeRnd).i = s.i := rfl
@[simp] theorem State.takeRnd_pc : (s.takeRnd).pc = s.pc := rfl
@[simp] theorem State.takeRnd_stack : (s.takeRnd).stack = s.stack := rfl
@[simp] theorem State.takeRnd_sp : (s.takeRnd).sp = s.sp := rfl
@[simp] theorem State.takeRnd_dt : (s.takeRnd).dt = s.dt := rfl
@[simp] theorem State.takeRnd_st : (s.takeRnd).st = s.st := rfl
@[simp] theorem State.takeRnd_keys : (s.takeRnd).keys = s.keys := rfl
@[simp] theorem State.takeRnd_fb : (s.takeRnd).fb = s.fb := rfl
@[simp] theorem State.takeRnd_dirty : (s.takeRnd).dirty = s.dirty := rfl
@[simp] theorem State.takeRnd_status : (s.takeRnd).status = s.status := rfl
@[simp] theorem State.takeRnd_fault : (s.takeRnd).fault = s.fault := rfl
@[simp] theorem State.takeRnd_fbWe : (s.takeRnd).fbWe = s.fbWe := rfl
@[simp] theorem State.takeRnd_events : (s.takeRnd).events = s.events := rfl
@[simp] theorem State.takeRnd_draws : (s.takeRnd).draws = s.draws + 1 := rfl
@[simp] theorem State.takeRnd_cfg : (s.takeRnd).cfg = s.cfg := rfl

/-! ### `State.raiseFault` -/

@[simp] theorem State.raiseFault_mem (c : FaultCause) (op : Word) : (s.raiseFault c op).mem = s.mem := rfl
@[simp] theorem State.raiseFault_v (c : FaultCause) (op : Word) : (s.raiseFault c op).v = s.v := rfl
@[simp] theorem State.raiseFault_i (c : FaultCause) (op : Word) : (s.raiseFault c op).i = s.i := rfl
@[simp] theorem State.raiseFault_pc (c : FaultCause) (op : Word) : (s.raiseFault c op).pc = s.pc - 2 := rfl
@[simp] theorem State.raiseFault_stack (c : FaultCause) (op : Word) :
    (s.raiseFault c op).stack = s.stack := rfl
@[simp] theorem State.raiseFault_sp (c : FaultCause) (op : Word) : (s.raiseFault c op).sp = s.sp := rfl
@[simp] theorem State.raiseFault_dt (c : FaultCause) (op : Word) : (s.raiseFault c op).dt = s.dt := rfl
@[simp] theorem State.raiseFault_st (c : FaultCause) (op : Word) : (s.raiseFault c op).st = s.st := rfl
@[simp] theorem State.raiseFault_keys (c : FaultCause) (op : Word) :
    (s.raiseFault c op).keys = s.keys := rfl
@[simp] theorem State.raiseFault_fb (c : FaultCause) (op : Word) : (s.raiseFault c op).fb = s.fb := rfl
@[simp] theorem State.raiseFault_dirty (c : FaultCause) (op : Word) :
    (s.raiseFault c op).dirty = s.dirty := rfl
@[simp] theorem State.raiseFault_status (c : FaultCause) (op : Word) :
    (s.raiseFault c op).status = .halted := rfl
@[simp] theorem State.raiseFault_fault (c : FaultCause) (op : Word) :
    (s.raiseFault c op).fault = { cause := c, pc := s.pc - 2, op := op } := rfl
@[simp] theorem State.raiseFault_fbWe (c : FaultCause) (op : Word) :
    (s.raiseFault c op).fbWe = s.fbWe := rfl
@[simp] theorem State.raiseFault_events (c : FaultCause) (op : Word) :
    (s.raiseFault c op).events = s.events ++ [.diag (.stackFault c (s.pc - 2) op)] := rfl
@[simp] theorem State.raiseFault_draws (c : FaultCause) (op : Word) :
    (s.raiseFault c op).draws = s.draws := rfl
@[simp] theorem State.raiseFault_cfg (c : FaultCause) (op : Word) : (s.raiseFault c op).cfg = s.cfg := rfl

/-! ### `State.advance` -/

@[simp] theorem State.advance_mem : (s.advance).mem = s.mem := rfl
@[simp] theorem State.advance_v : (s.advance).v = s.v := rfl
@[simp] theorem State.advance_i : (s.advance).i = s.i := rfl
@[simp] theorem State.advance_pc : (s.advance).pc = s.pc + 2 := rfl
@[simp] theorem State.advance_stack : (s.advance).stack = s.stack := rfl
@[simp] theorem State.advance_sp : (s.advance).sp = s.sp := rfl
@[simp] theorem State.advance_dt : (s.advance).dt = s.dt := rfl
@[simp] theorem State.advance_st : (s.advance).st = s.st := rfl
@[simp] theorem State.advance_keys : (s.advance).keys = s.keys := rfl
@[simp] theorem State.advance_fb : (s.advance).fb = s.fb := rfl
@[simp] theorem State.advance_dirty : (s.advance).dirty = s.dirty := rfl
@[simp] theorem State.advance_status : (s.advance).status = s.status := rfl
@[simp] theorem State.advance_fault : (s.advance).fault = s.fault := rfl
@[simp] theorem State.advance_fbWe : (s.advance).fbWe = s.fbWe := rfl
@[simp] theorem State.advance_events : (s.advance).events = s.events := rfl
@[simp] theorem State.advance_draws : (s.advance).draws = s.draws := rfl
@[simp] theorem State.advance_cfg : (s.advance).cfg = s.cfg := rfl

/-! ### `State.key` -/

@[simp] theorem State.key_mem (k : Nibble) (b : Bool) : (s.key k b).mem = s.mem := rfl
@[simp] theorem State.key_v (k : Nibble) (b : Bool) : (s.key k b).v = s.v := rfl
@[simp] theorem State.key_i (k : Nibble) (b : Bool) : (s.key k b).i = s.i := rfl
@[simp] theorem State.key_pc (k : Nibble) (b : Bool) : (s.key k b).pc = s.pc := rfl
@[simp] theorem State.key_stack (k : Nibble) (b : Bool) : (s.key k b).stack = s.stack := rfl
@[simp] theorem State.key_sp (k : Nibble) (b : Bool) : (s.key k b).sp = s.sp := rfl
@[simp] theorem State.key_dt (k : Nibble) (b : Bool) : (s.key k b).dt = s.dt := rfl
@[simp] theorem State.key_st (k : Nibble) (b : Bool) : (s.key k b).st = s.st := rfl
@[simp] theorem State.key_keys (k : Nibble) (b : Bool) :
    (s.key k b).keys = if b then s.keys ||| (1#16 <<< k.toNat) else s.keys &&& ~~~(1#16 <<< k.toNat) := rfl
@[simp] theorem State.key_fb (k : Nibble) (b : Bool) : (s.key k b).fb = s.fb := rfl
@[simp] theorem State.key_dirty (k : Nibble) (b : Bool) : (s.key k b).dirty = s.dirty := rfl
@[simp] theorem State.key_status (k : Nibble) (b : Bool) : (s.key k b).status = s.status := rfl
@[simp] theorem State.key_fault (k : Nibble) (b : Bool) : (s.key k b).fault = s.fault := rfl
@[simp] theorem State.key_fbWe (k : Nibble) (b : Bool) : (s.key k b).fbWe = s.fbWe := rfl
@[simp] theorem State.key_events (k : Nibble) (b : Bool) : (s.key k b).events = s.events := rfl
@[simp] theorem State.key_draws (k : Nibble) (b : Bool) : (s.key k b).draws = s.draws := rfl
@[simp] theorem State.key_cfg (k : Nibble) (b : Bool) : (s.key k b).cfg = s.cfg := rfl

end

end Sys2Proof.Machine
end

