-- ==== Sys2Proof/Laws/Memory.lean ====
section
/-! SUPPORT. The laws of memory: a read after a write, and that every memory operation keeps the canonical
form. -/

namespace Sys2Proof.Machine

/-! ### The listed form, from an address up -/

theorem Memory.wfFrom_cons {font lo a v m} :
    Memory.wfFrom font lo ((a, v) :: m) = true ↔
      lo ≤ a ∧ a < 4096 ∧ v ≠ Memory.unlisted font a ∧ Memory.wfFrom font (a + 1) m = true := by
  simp [Memory.wfFrom, and_assoc]

theorem Memory.wfFrom_mono {font m} : ∀ {lo lo' : Nat}, lo' ≤ lo →
    Memory.wfFrom font lo m = true → Memory.wfFrom font lo' m = true := by
  intro lo lo' hle h
  cases m with
  | nil => rfl
  | cons c m =>
    obtain ⟨a, v⟩ := c
    rw [Memory.wfFrom_cons] at h ⊢
    exact ⟨by omega, h.2⟩

/-- Below the first listed address everything is unlisted. -/
theorem Memory.read_below {font} : ∀ {m : Memory} {lo a : Nat}, Memory.wfFrom font lo m = true → a < lo →
    Memory.read font m a = Memory.unlisted font a
  | [], _, _, _, _ => rfl
  | (b, w) :: m, lo, a, h, hlt => by
    rw [Memory.wfFrom_cons] at h
    have hne : a ≠ b := by omega
    simp only [Memory.read, hne, if_false]
    exact Memory.read_below h.2.2.2 (by omega)

/-! ### Reading what an operation leaves -/

theorem Memory.read_put {font} : ∀ {m : Memory} {lo a b : Nat} {v : Byte}, Memory.wfFrom font lo m = true →
    Memory.read font (Memory.put m a v) b = if b = a then v else Memory.read font m b
  | [], _, a, b, v, _ => by simp [Memory.put, Memory.read]
  | (c, w) :: m, lo, a, b, v, h => by
    rw [Memory.wfFrom_cons] at h
    by_cases hac : a < c
    · simp [Memory.put, hac, Memory.read]
    · by_cases hae : a = c
      · subst hae
        simp only [Memory.put, lt_irrefl, if_false, if_true, Memory.read]
        split <;> rfl
      · simp only [Memory.put, hac, hae, if_false, Memory.read]
        rw [Memory.read_put h.2.2.2]
        by_cases hbc : b = c
        · subst hbc; simp [Ne.symm hae]
        · simp [hbc]

theorem Memory.read_drop {font} : ∀ {m : Memory} {lo a b : Nat}, Memory.wfFrom font lo m = true →
    Memory.read font (Memory.drop m a) b =
      if b = a then Memory.unlisted font a else Memory.read font m b
  | [], _, a, b, _ => by
    simp only [Memory.drop, Memory.read]
    split
    · next h => rw [h]
    · rfl
  | (c, w) :: m, lo, a, b, h => by
    rw [Memory.wfFrom_cons] at h
    by_cases hac : a < c
    · simp only [Memory.drop, hac, if_true]
      by_cases hba : b = a
      · subst hba
        simp only [Memory.read, Nat.ne_of_lt hac, if_false, if_true]
        exact Memory.read_below h.2.2.2 (by omega)
      · simp [hba]
    · by_cases hae : a = c
      · subst hae
        simp only [Memory.drop, lt_irrefl, if_false, if_true, Memory.read]
        by_cases hba : b = a
        · subst hba
          simp only [if_true]
          exact Memory.read_below h.2.2.2 (by omega)
        · simp [hba]
      · simp only [Memory.drop, hac, hae, if_false, Memory.read]
        rw [Memory.read_drop h.2.2.2]
        by_cases hbc : b = c
        · subst hbc; simp [Ne.symm hae]
        · simp [hbc]

theorem Memory.read_write {font} {m : Memory} {a b : Nat} {v : Byte} (h : Memory.wf font m = true) :
    Memory.read font (Memory.write font m a v) b = if b = a then v else Memory.read font m b := by
  unfold Memory.write
  split
  · next hv => rw [Memory.read_drop h, hv]
  · exact Memory.read_put h

/-- A write leaves every other address alone, whatever form the memory has. -/
theorem Memory.read_write_of_ne {font} {a b : Nat} (hne : b ≠ a) (v : Byte) : ∀ m : Memory,
    Memory.read font (Memory.write font m a v) b = Memory.read font m b := by
  have put : ∀ m : Memory, Memory.read font (Memory.put m a v) b = Memory.read font m b := by
    intro m
    induction m with
    | nil => simp [Memory.put, Memory.read, hne]
    | cons c m ih =>
      obtain ⟨c, w⟩ := c
      by_cases hac : a < c
      · simp [Memory.put, hac, Memory.read, hne]
      · by_cases hae : a = c
        · subst hae; simp [Memory.put, Memory.read, hne]
        · simp [Memory.put, hac, hae, Memory.read, ih]
  have drop : ∀ m : Memory, Memory.read font (Memory.drop m a) b = Memory.read font m b := by
    intro m
    induction m with
    | nil => rfl
    | cons c m ih =>
      obtain ⟨c, w⟩ := c
      by_cases hac : a < c
      · simp [Memory.drop, hac]
      · by_cases hae : a = c
        · subst hae; simp [Memory.drop, Memory.read, hne]
        · simp [Memory.drop, hac, hae, Memory.read, ih]
  intro m
  unfold Memory.write
  split
  · exact drop m
  · exact put m

/-! ### Every operation keeps the form -/

theorem Memory.wfFrom_put {font} : ∀ {m : Memory} {lo a : Nat} {v : Byte}, Memory.wfFrom font lo m = true →
    lo ≤ a → a < 4096 → v ≠ Memory.unlisted font a → Memory.wfFrom font lo (Memory.put m a v) = true
  | [], lo, a, v, _, h1, h2, h3 => by simp [Memory.put, Memory.wfFrom, h1, h2, h3]
  | (c, w) :: m, lo, a, v, h, h1, h2, h3 => by
    rw [Memory.wfFrom_cons] at h
    by_cases hac : a < c
    · simp only [Memory.put, hac, if_true]
      rw [Memory.wfFrom_cons, Memory.wfFrom_cons]
      exact ⟨h1, h2, h3, by omega, h.2⟩
    · by_cases hae : a = c
      · subst hae
        simp only [Memory.put, lt_irrefl, if_false, if_true]
        rw [Memory.wfFrom_cons]
        exact ⟨h1, h2, h3, h.2.2.2⟩
      · simp only [Memory.put, hac, hae, if_false]
        rw [Memory.wfFrom_cons]
        exact ⟨h.1, h.2.1, h.2.2.1, Memory.wfFrom_put h.2.2.2 (by omega) h2 h3⟩

theorem Memory.wfFrom_drop {font} : ∀ {m : Memory} {lo a : Nat}, Memory.wfFrom font lo m = true →
    Memory.wfFrom font lo (Memory.drop m a) = true
  | [], _, _, _ => rfl
  | (c, w) :: m, lo, a, h => by
    have h' := h
    rw [Memory.wfFrom_cons] at h
    by_cases hac : a < c
    · simpa only [Memory.drop, hac, if_true] using h'
    · by_cases hae : a = c
      · subst hae
        simp only [Memory.drop, lt_irrefl, if_false, if_true]
        exact Memory.wfFrom_mono (by omega) h.2.2.2
      · simp only [Memory.drop, hac, hae, if_false]
        rw [Memory.wfFrom_cons]
        exact ⟨h.1, h.2.1, h.2.2.1, Memory.wfFrom_drop h.2.2.2⟩

/-- A write at an address of the space keeps the form, if it had it. -/
theorem Memory.wfFrom_write_zero {font} {m : Memory} {a : Nat} {v : Byte} (h : Memory.wfFrom font 0 m = true)
    (ha : a < 4096) : Memory.wfFrom font 0 (Memory.write font m a v) = true := by
  unfold Memory.write
  split
  · exact Memory.wfFrom_drop h
  · next hv => exact Memory.wfFrom_put h (Nat.zero_le a) ha hv

/-! ### The operations on State -/

theorem State.readByte_writeByte {s : State} (h : s.memWf) (a b : Addr) (v : Byte) :
    (s.writeByte a v).readByte b = if b = a then v else s.readByte b := by
  have := Memory.read_write (font := s.cfg.font) (a := a.toNat) (b := b.toNat) (v := v) h
  simp only [State.readByte, State.writeByte_mem, State.writeByte_cfg, this]
  congr 1
  exact propext ⟨BitVec.eq_of_toNat_eq, congrArg _⟩

theorem State.readByte_writeByte_of_ne (s : State) {a b : Addr} (h : b ≠ a) (v : Byte) :
    (s.writeByte a v).readByte b = s.readByte b :=
  Memory.read_write_of_ne (fun hh => h (BitVec.eq_of_toNat_eq hh)) v s.mem

theorem State.memWf_writeByte {s : State} (h : s.memWf) (a : Addr) (v : Byte) : (s.writeByte a v).memWf :=
  Memory.wfFrom_write_zero h a.isLt

/-- Reading depends on the memory and the font alone. -/
theorem State.readByte_congr {s t : State} (hm : t.mem = s.mem) (hc : t.cfg = s.cfg) (a : Addr) :
    t.readByte a = s.readByte a := by simp [State.readByte, hm, hc]

end Sys2Proof.Machine
end

