-- ==== Sys2Proof/Laws/Accessors.lean ====
section
/-! SUPPORT. The accessors over the updates: a register, a byte, a pixel after an update that does not write it, and
a register and a pixel after the update that does. -/

namespace Sys2Proof.Machine

section
variable (s : State)

@[simp] theorem State.readV_writeByte (a : Addr) (b : Byte) (k : Nibble) : (s.writeByte a b).readV k = s.readV k := rfl
@[simp] theorem State.pixel_writeByte (a : Addr) (b : Byte) (px py : Nat) :
    (s.writeByte a b).pixel px py = s.pixel px py := rfl
@[simp] theorem State.iRel_writeByte (a : Addr) (b : Byte) (k : Nat) : (s.writeByte a b).iRel k = s.iRel k := rfl
@[simp] theorem State.readByte_setV (x : Nibble) (b : Byte) (k : Addr) : (s.setV x b).readByte k = s.readByte k := rfl
@[simp] theorem State.pixel_setV (x : Nibble) (b : Byte) (px py : Nat) :
    (s.setV x b).pixel px py = s.pixel px py := rfl
@[simp] theorem State.iRel_setV (x : Nibble) (b : Byte) (k : Nat) : (s.setV x b).iRel k = s.iRel k := rfl
@[simp] theorem State.readV_setI (w : Word) (k : Nibble) : (s.setI w).readV k = s.readV k := rfl
@[simp] theorem State.readByte_setI (w : Word) (k : Addr) : (s.setI w).readByte k = s.readByte k := rfl
@[simp] theorem State.pixel_setI (w : Word) (px py : Nat) :
    (s.setI w).pixel px py = s.pixel px py := rfl
@[simp] theorem State.readV_setPc (w : Word) (k : Nibble) : (s.setPc w).readV k = s.readV k := rfl
@[simp] theorem State.readByte_setPc (w : Word) (k : Addr) : (s.setPc w).readByte k = s.readByte k := rfl
@[simp] theorem State.pixel_setPc (w : Word) (px py : Nat) :
    (s.setPc w).pixel px py = s.pixel px py := rfl
@[simp] theorem State.iRel_setPc (w : Word) (k : Nat) : (s.setPc w).iRel k = s.iRel k := rfl
@[simp] theorem State.readV_setDt (b : Byte) (k : Nibble) : (s.setDt b).readV k = s.readV k := rfl
@[simp] theorem State.readByte_setDt (b : Byte) (k : Addr) : (s.setDt b).readByte k = s.readByte k := rfl
@[simp] theorem State.pixel_setDt (b : Byte) (px py : Nat) :
    (s.setDt b).pixel px py = s.pixel px py := rfl
@[simp] theorem State.iRel_setDt (b : Byte) (k : Nat) : (s.setDt b).iRel k = s.iRel k := rfl
@[simp] theorem State.readV_setSt (b : Byte) (k : Nibble) : (s.setSt b).readV k = s.readV k := rfl
@[simp] theorem State.readByte_setSt (b : Byte) (k : Addr) : (s.setSt b).readByte k = s.readByte k := rfl
@[simp] theorem State.pixel_setSt (b : Byte) (px py : Nat) :
    (s.setSt b).pixel px py = s.pixel px py := rfl
@[simp] theorem State.iRel_setSt (b : Byte) (k : Nat) : (s.setSt b).iRel k = s.iRel k := rfl
@[simp] theorem State.readV_setStatus (x : Status) (k : Nibble) : (s.setStatus x).readV k = s.readV k := rfl
@[simp] theorem State.readByte_setStatus (x : Status) (k : Addr) : (s.setStatus x).readByte k = s.readByte k := rfl
@[simp] theorem State.pixel_setStatus (x : Status) (px py : Nat) :
    (s.setStatus x).pixel px py = s.pixel px py := rfl
@[simp] theorem State.iRel_setStatus (x : Status) (k : Nat) : (s.setStatus x).iRel k = s.iRel k := rfl
@[simp] theorem State.readV_setFault (f : FaultRecord) (k : Nibble) : (s.setFault f).readV k = s.readV k := rfl
@[simp] theorem State.readByte_setFault (f : FaultRecord) (k : Addr) : (s.setFault f).readByte k = s.readByte k := rfl
@[simp] theorem State.pixel_setFault (f : FaultRecord) (px py : Nat) :
    (s.setFault f).pixel px py = s.pixel px py := rfl
@[simp] theorem State.iRel_setFault (f : FaultRecord) (k : Nat) : (s.setFault f).iRel k = s.iRel k := rfl
@[simp] theorem State.readV_push (w : Word) (h : s.sp.val < 12) (k : Nibble) : (s.push w h).readV k = s.readV k := rfl
@[simp] theorem State.readByte_push (w : Word) (h : s.sp.val < 12) (k : Addr) : (s.push w h).readByte k = s.readByte k := rfl
@[simp] theorem State.pixel_push (w : Word) (h : s.sp.val < 12) (px py : Nat) :
    (s.push w h).pixel px py = s.pixel px py := rfl
@[simp] theorem State.iRel_push (w : Word) (h : s.sp.val < 12) (k : Nat) : (s.push w h).iRel k = s.iRel k := rfl
@[simp] theorem State.readV_popToPc (h : 0 < s.sp.val) (k : Nibble) : (s.popToPc h).readV k = s.readV k := rfl
@[simp] theorem State.readByte_popToPc (h : 0 < s.sp.val) (k : Addr) : (s.popToPc h).readByte k = s.readByte k := rfl
@[simp] theorem State.pixel_popToPc (h : 0 < s.sp.val) (px py : Nat) :
    (s.popToPc h).pixel px py = s.pixel px py := rfl
@[simp] theorem State.iRel_popToPc (h : 0 < s.sp.val) (k : Nat) : (s.popToPc h).iRel k = s.iRel k := rfl
@[simp] theorem State.readV_paint (fb : Framebuffer) (k : Nibble) : (s.paint fb).readV k = s.readV k := rfl
@[simp] theorem State.readByte_paint (fb : Framebuffer) (k : Addr) : (s.paint fb).readByte k = s.readByte k := rfl
@[simp] theorem State.iRel_paint (fb : Framebuffer) (k : Nat) : (s.paint fb).iRel k = s.iRel k := rfl
@[simp] theorem State.readV_setDirty (b : Bool) (k : Nibble) : (s.setDirty b).readV k = s.readV k := rfl
@[simp] theorem State.readByte_setDirty (b : Bool) (k : Addr) : (s.setDirty b).readByte k = s.readByte k := rfl
@[simp] theorem State.pixel_setDirty (b : Bool) (px py : Nat) :
    (s.setDirty b).pixel px py = s.pixel px py := rfl
@[simp] theorem State.iRel_setDirty (b : Bool) (k : Nat) : (s.setDirty b).iRel k = s.iRel k := rfl
@[simp] theorem State.readV_setFbWe (b : Bool) (k : Nibble) : (s.setFbWe b).readV k = s.readV k := rfl
@[simp] theorem State.readByte_setFbWe (b : Bool) (k : Addr) : (s.setFbWe b).readByte k = s.readByte k := rfl
@[simp] theorem State.pixel_setFbWe (b : Bool) (px py : Nat) :
    (s.setFbWe b).pixel px py = s.pixel px py := rfl
@[simp] theorem State.iRel_setFbWe (b : Bool) (k : Nat) : (s.setFbWe b).iRel k = s.iRel k := rfl
@[simp] theorem State.readV_emit (os : List Output) (k : Nibble) : (s.emit os).readV k = s.readV k := rfl
@[simp] theorem State.readByte_emit (os : List Output) (k : Addr) : (s.emit os).readByte k = s.readByte k := rfl
@[simp] theorem State.pixel_emit (os : List Output) (px py : Nat) :
    (s.emit os).pixel px py = s.pixel px py := rfl
@[simp] theorem State.iRel_emit (os : List Output) (k : Nat) : (s.emit os).iRel k = s.iRel k := rfl
@[simp] theorem State.readV_report (d : Diag) (k : Nibble) : (s.report d).readV k = s.readV k := rfl
@[simp] theorem State.readByte_report (d : Diag) (k : Addr) : (s.report d).readByte k = s.readByte k := rfl
@[simp] theorem State.pixel_report (d : Diag) (px py : Nat) :
    (s.report d).pixel px py = s.pixel px py := rfl
@[simp] theorem State.iRel_report (d : Diag) (k : Nat) : (s.report d).iRel k = s.iRel k := rfl
@[simp] theorem State.readV_takeRnd (k : Nibble) : (s.takeRnd).readV k = s.readV k := rfl
@[simp] theorem State.readByte_takeRnd (k : Addr) : (s.takeRnd).readByte k = s.readByte k := rfl
@[simp] theorem State.pixel_takeRnd (px py : Nat) :
    (s.takeRnd).pixel px py = s.pixel px py := rfl
@[simp] theorem State.iRel_takeRnd (k : Nat) : (s.takeRnd).iRel k = s.iRel k := rfl
@[simp] theorem State.readV_raiseFault (c : FaultCause) (op : Word) (k : Nibble) : (s.raiseFault c op).readV k = s.readV k := rfl
@[simp] theorem State.readByte_raiseFault (c : FaultCause) (op : Word) (k : Addr) : (s.raiseFault c op).readByte k = s.readByte k := rfl
@[simp] theorem State.pixel_raiseFault (c : FaultCause) (op : Word) (px py : Nat) :
    (s.raiseFault c op).pixel px py = s.pixel px py := rfl
@[simp] theorem State.iRel_raiseFault (c : FaultCause) (op : Word) (k : Nat) : (s.raiseFault c op).iRel k = s.iRel k := rfl
@[simp] theorem State.readV_advance (k : Nibble) : (s.advance).readV k = s.readV k := rfl
@[simp] theorem State.readByte_advance (k : Addr) : (s.advance).readByte k = s.readByte k := rfl
@[simp] theorem State.pixel_advance (px py : Nat) :
    (s.advance).pixel px py = s.pixel px py := rfl
@[simp] theorem State.iRel_advance (k : Nat) : (s.advance).iRel k = s.iRel k := rfl
@[simp] theorem State.readV_key (k : Nibble) (b : Bool) (j : Nibble) : (s.key k b).readV j = s.readV j := rfl
@[simp] theorem State.readByte_key (k : Nibble) (b : Bool) (j : Addr) : (s.key k b).readByte j = s.readByte j := rfl
@[simp] theorem State.pixel_key (k : Nibble) (b : Bool) (px py : Nat) :
    (s.key k b).pixel px py = s.pixel px py := rfl
@[simp] theorem State.iRel_key (k : Nibble) (b : Bool) (j : Nat) : (s.key k b).iRel j = s.iRel j := rfl

end

@[simp] theorem State.readV_setV (s : State) (x k : Nibble) (b : Byte) :
    (s.setV x b).readV k = if k = x then b else s.readV k := by
  simp only [State.readV, State.setV_v, Vector.getElem_set]
  by_cases h : k = x
  · simp [h]
  · have : x.toNat ≠ k.toNat := fun e => h (BitVec.eq_of_toNat_eq e).symm
    simp [h, this]

@[simp] theorem State.memWf_iff_setV (s : State) (x : Nibble) (b : Byte) : (s.setV x b).memWf = s.memWf := rfl

/-! ### Pixels -/

@[simp] theorem Framebuffer.get_blank (px py : Nat) : Framebuffer.get Framebuffer.blank px py = false := by
  unfold Framebuffer.get Framebuffer.blank
  split <;> simp

theorem Framebuffer.get_of_ge {fb : Framebuffer} {px py : Nat} (h : ¬(py < 32 ∧ px < 64)) :
    Framebuffer.get fb px py = false := by simp [Framebuffer.get, h]

/-- A flip changes its own pixel, if that is on the screen, and no other. -/
theorem Framebuffer.get_flip (fb : Framebuffer) (x y px py : Nat) :
    Framebuffer.get (Framebuffer.flip fb x y) px py =
      if px = x ∧ py = y ∧ y < 32 ∧ x < 64 then !Framebuffer.get fb px py else Framebuffer.get fb px py := by
  unfold Framebuffer.flip
  by_cases h : y < 32 ∧ x < 64
  · simp only [h, and_self, and_true, dite_true]
    by_cases hp : py < 32 ∧ px < 64
    · simp only [Framebuffer.get, hp, and_self, dite_true, Vector.getElem_set]
      by_cases hy : py = y
      · subst hy
        by_cases hx : px = x
        · subst hx; simp
        · simp [hx, Ne.symm hx]
      · simp [hy, Ne.symm hy]
    · have : ¬(px = x ∧ py = y) := by rintro ⟨rfl, rfl⟩; exact hp h
      simpa [Framebuffer.get_of_ge hp] using fun hx hy => this ⟨hx, hy⟩
  · rw [dif_neg h]
    rw [if_neg (fun hh => h hh.2.2)]

@[simp] theorem State.pixel_paint (s : State) (fb : Framebuffer) (px py : Nat) :
    (s.paint fb).pixel px py = Framebuffer.get fb px py := rfl

/-- Two framebuffers with the same pixels are the same. -/
theorem Framebuffer.ext_get {fb fb' : Framebuffer}
    (h : ∀ px < 64, ∀ py < 32, Framebuffer.get fb px py = Framebuffer.get fb' px py) : fb = fb' := by
  apply Vector.ext
  intro y hy
  apply Vector.ext
  intro x hx
  have := h x hx y hy
  simpa [Framebuffer.get, hx, hy] using this

/-- Two states with the same registers have the same register file. -/
theorem State.v_ext {s t : State} (h : ∀ k : Nibble, t.readV k = s.readV k) : t.v = s.v := by
  apply Vector.ext
  intro k hk
  have := h (BitVec.ofNat 4 k)
  have hm : k % 16 = k := Nat.mod_eq_of_lt hk
  simpa [State.readV, BitVec.toNat_ofNat, hm] using this

end Sys2Proof.Machine
end

