-- ==== Sys2Proof/Laws/Decode.lean ====
section
/-! SUPPORT. The fields of the three formats of 30_encoding.md R81, and the words back from their fields. -/

namespace Sys2Proof

/-! ### The numbers of words and fields -/

theorem toNat_append_add {w v : Nat} (a : BitVec w) (b : BitVec v) :
    (a ++ b).toNat = a.toNat * 2 ^ v + b.toNat := by
  rw [BitVec.toNat_append, ← Nat.shiftLeft_add_eq_or_of_lt b.isLt, Nat.shiftLeft_eq]

theorem toNat_formRegReg (f x y n : Nibble) :
    (formRegReg f x y n).toNat = f.toNat * 4096 + x.toNat * 256 + y.toNat * 16 + n.toNat := by
  have h : (formRegReg f x y n).toNat = (f ++ x ++ y ++ n).toNat := rfl
  rw [h, toNat_append_add, toNat_append_add, toNat_append_add]
  omega

theorem toNat_formRegImm (f x : Nibble) (nn : Byte) :
    (formRegImm f x nn).toNat = f.toNat * 4096 + x.toNat * 256 + nn.toNat := by
  have h : (formRegImm f x nn).toNat = (f ++ x ++ nn).toNat := rfl
  rw [h, toNat_append_add, toNat_append_add]
  omega

theorem toNat_formAddr (f : Nibble) (nnn : Addr) :
    (formAddr f nnn).toNat = f.toNat * 4096 + nnn.toNat := by
  have h : (formAddr f nnn).toNat = (f ++ nnn).toNat := rfl
  rw [h, toNat_append_add]
  omega

theorem toNat_bigEndian (hi lo : Byte) : (bigEndian hi lo).toNat = hi.toNat * 256 + lo.toNat := by
  have h : (bigEndian hi lo).toNat = (hi ++ lo).toNat := rfl
  rw [h, toNat_append_add]
  omega

section
variable (w : Word)

theorem toNat_fieldF : (fieldF w).toNat = w.toNat / 4096 % 16 := by
  simp [fieldF, BitVec.extractLsb'_toNat, Nat.shiftRight_eq_div_pow]
theorem toNat_fieldX : (fieldX w).toNat = w.toNat / 256 % 16 := by
  simp [fieldX, BitVec.extractLsb'_toNat, Nat.shiftRight_eq_div_pow]
theorem toNat_fieldY : (fieldY w).toNat = w.toNat / 16 % 16 := by
  simp [fieldY, BitVec.extractLsb'_toNat, Nat.shiftRight_eq_div_pow]
theorem toNat_fieldN : (fieldN w).toNat = w.toNat % 16 := by
  simp [fieldN, BitVec.extractLsb'_toNat]
theorem toNat_fieldNN : (fieldNN w).toNat = w.toNat % 256 := by
  simp [fieldNN, BitVec.extractLsb'_toNat]
theorem toNat_fieldNNN : (fieldNNN w).toNat = w.toNat % 4096 := by
  simp [fieldNNN, BitVec.extractLsb'_toNat]

end

/-! ### Field of a format -/

section
variable (f x y n : Nibble) (nn : Byte) (nnn : Addr)

@[simp] theorem fieldF_formRegReg : fieldF (formRegReg f x y n) = f :=
  BitVec.eq_of_toNat_eq (by rw [toNat_fieldF, toNat_formRegReg]; omega)
@[simp] theorem fieldX_formRegReg : fieldX (formRegReg f x y n) = x :=
  BitVec.eq_of_toNat_eq (by rw [toNat_fieldX, toNat_formRegReg]; omega)
@[simp] theorem fieldY_formRegReg : fieldY (formRegReg f x y n) = y :=
  BitVec.eq_of_toNat_eq (by rw [toNat_fieldY, toNat_formRegReg]; omega)
@[simp] theorem fieldN_formRegReg : fieldN (formRegReg f x y n) = n :=
  BitVec.eq_of_toNat_eq (by rw [toNat_fieldN, toNat_formRegReg]; omega)
@[simp] theorem fieldF_formRegImm : fieldF (formRegImm f x nn) = f :=
  BitVec.eq_of_toNat_eq (by rw [toNat_fieldF, toNat_formRegImm]; omega)
@[simp] theorem fieldX_formRegImm : fieldX (formRegImm f x nn) = x :=
  BitVec.eq_of_toNat_eq (by rw [toNat_fieldX, toNat_formRegImm]; omega)
@[simp] theorem fieldNN_formRegImm : fieldNN (formRegImm f x nn) = nn :=
  BitVec.eq_of_toNat_eq (by rw [toNat_fieldNN, toNat_formRegImm]; omega)
@[simp] theorem fieldF_formAddr : fieldF (formAddr f nnn) = f :=
  BitVec.eq_of_toNat_eq (by rw [toNat_fieldF, toNat_formAddr]; omega)
@[simp] theorem fieldNNN_formAddr : fieldNNN (formAddr f nnn) = nnn :=
  BitVec.eq_of_toNat_eq (by rw [toNat_fieldNNN, toNat_formAddr]; omega)

/-- NN is the low byte of NNN (R81: the fields overlap). -/
@[simp] theorem fieldNN_formAddr : fieldNN (formAddr f nnn) = nnn.extractLsb' 0 8 :=
  BitVec.eq_of_toNat_eq (by
    rw [toNat_fieldNN, toNat_formAddr, BitVec.extractLsb'_toNat, Nat.shiftRight_zero]; omega)

end

/-! ### Words from their fields -/

section
variable (w : Word)

theorem formRegReg_fields : formRegReg (fieldF w) (fieldX w) (fieldY w) (fieldN w) = w :=
  BitVec.eq_of_toNat_eq (by
    rw [toNat_formRegReg, toNat_fieldF, toNat_fieldX, toNat_fieldY, toNat_fieldN]; omega)
theorem formRegImm_fields : formRegImm (fieldF w) (fieldX w) (fieldNN w) = w :=
  BitVec.eq_of_toNat_eq (by rw [toNat_formRegImm, toNat_fieldF, toNat_fieldX, toNat_fieldNN]; omega)
theorem formAddr_fields : formAddr (fieldF w) (fieldNNN w) = w :=
  BitVec.eq_of_toNat_eq (by rw [toNat_formAddr, toNat_fieldF, toNat_fieldNNN]; omega)

/-- A word is its two bytes, high byte first (20_memory.md R65). -/
theorem bigEndian_bytes : bigEndian (w.extractLsb' 8 8) (w.extractLsb' 0 8) = w :=
  BitVec.eq_of_toNat_eq (by
    rw [toNat_bigEndian, BitVec.extractLsb'_toNat, BitVec.extractLsb'_toNat, Nat.shiftRight_zero,
      Nat.shiftRight_eq_div_pow]
    omega)

/-- The low byte of NNN is NN. -/
theorem fieldNNN_low : (fieldNNN w).extractLsb' 0 8 = fieldNN w :=
  BitVec.eq_of_toNat_eq (by
    rw [BitVec.extractLsb'_toNat, Nat.shiftRight_zero, toNat_fieldNNN, toNat_fieldNN]; omega)

/-- An error of the decoder names the word it was given. -/
theorem decodeWord_error {strict : Bool} {e : DecodeError} (h : decodeWord strict w = .error e) :
    e = .unknownOpcode w := by
  unfold decodeWord decodeSkipReg decodeFamily8 decodeFamilyE decodeFamilyF at h
  repeat' split at h
  all_goals cases h
  all_goals rfl

end

/-! ### The masks of R87 -/

section
variable (f x y n : Nibble) (nn : Byte) (nnn : Addr)

theorem ones4 : (0xF#4 : Nibble) = BitVec.allOnes 4 := by decide
theorem ones8 : (0xFF#8 : Byte) = BitVec.allOnes 8 := by decide

/-- Mask F00F keeps F and N. -/
theorem formRegReg_and_F00F : formRegReg f x y n &&& 0xF00F#16 = formRegReg f 0 0 n := by
  have key : (f ++ x ++ y ++ n) &&& (0xF#4 ++ 0#4 ++ 0#4 ++ 0xF#4) = f ++ 0#4 ++ 0#4 ++ n := by
    rw [ones4]
    simp only [BitVec.and_append, BitVec.and_allOnes, BitVec.and_zero]
  exact key

/-- Mask F000 keeps F. -/
theorem formRegReg_and_F000 : formRegReg f x y n &&& 0xF000#16 = formRegReg f 0 0 0 := by
  have key : (f ++ x ++ y ++ n) &&& (0xF#4 ++ 0#4 ++ 0#4 ++ 0#4) = f ++ 0#4 ++ 0#4 ++ 0#4 := by
    rw [ones4]
    simp only [BitVec.and_append, BitVec.and_allOnes, BitVec.and_zero]
  exact key

/-- Mask F0FF keeps F and the low byte. -/
theorem formRegImm_and_F0FF : formRegImm f x nn &&& 0xF0FF#16 = formRegImm f 0 nn := by
  have key : (f ++ x ++ nn) &&& (0xF#4 ++ 0#4 ++ 0xFF#8) = f ++ 0#4 ++ nn := by
    rw [ones4, ones8]
    simp only [BitVec.and_append, BitVec.and_allOnes, BitVec.and_zero]
  exact key

/-- Mask F000 keeps F. -/
theorem formRegImm_and_F000 : formRegImm f x nn &&& 0xF000#16 = formRegImm f 0 0 := by
  have key : (f ++ x ++ nn) &&& (0xF#4 ++ 0#4 ++ 0#8) = f ++ 0#4 ++ 0#8 := by
    rw [ones4]
    simp only [BitVec.and_append, BitVec.and_allOnes, BitVec.and_zero]
  exact key

/-- Mask F000 keeps F. -/
theorem formAddr_and_F000 : formAddr f nnn &&& 0xF000#16 = formAddr f 0 := by
  have key : (f ++ nnn) &&& (0xF#4 ++ 0#12) = f ++ 0#12 := by
    rw [ones4]
    simp only [BitVec.and_append, BitVec.and_allOnes, BitVec.and_zero]
  exact key

/-- Selecting a row with mask F000 is a matter of F. -/
theorem and_F000_eq_iff (w : Word) (c : Nibble) :
    w &&& 0xF000#16 = formRegReg c 0 0 0 ↔ fieldF w = c := by
  rw [← formRegReg_fields w, formRegReg_and_F000]
  constructor
  · intro h; simpa using congrArg fieldF h
  · intro h; simp at h; rw [h]

/-- Selecting a row with mask F00F is a matter of F and N. -/
theorem and_F00F_eq_iff (w : Word) (c m : Nibble) :
    w &&& 0xF00F#16 = formRegReg c 0 0 m ↔ fieldF w = c ∧ fieldN w = m := by
  rw [← formRegReg_fields w, formRegReg_and_F00F]
  constructor
  · intro h; exact ⟨by simpa using congrArg fieldF h, by simpa using congrArg fieldN h⟩
  · intro h; simp at h; rw [h.1, h.2]

/-- Selecting a row with mask F0FF is a matter of F and the low byte. -/
theorem and_F0FF_eq_iff (w : Word) (c : Nibble) (b : Byte) :
    w &&& 0xF0FF#16 = formRegImm c 0 b ↔ fieldF w = c ∧ fieldNN w = b := by
  rw [← formRegImm_fields w, formRegImm_and_F0FF]
  constructor
  · intro h; exact ⟨by simpa using congrArg fieldF h, by simpa using congrArg fieldNN h⟩
  · intro h; simp at h; rw [h.1, h.2]

end

end Sys2Proof
end

