-- ==== Sys2Proof/Laws/Operands.lean ====
section
/-! SUPPORT. What each shared operation over operands can do: the address check, the key number, the skip, the
fault, the loads and stores of a run of bytes. -/

namespace Sys2Proof.Machine

/-! ### Small arithmetic -/

@[simp] theorem ea_toNat (e : Nat) : (ea e).toNat = e % 4096 := by simp [ea, BitVec.toNat_ofNat]

theorem State.addrAtI_eq (s : State) (k : Nat) : s.addrAtI k = ea (s.iRel k) := by
  apply BitVec.eq_of_toNat_eq
  simp [State.addrAtI, State.iRel, ea, BitVec.toNat_ofNat]

/-! ### The address check -/

theorem State.oobReports_iRange (s : State) (n : Nat) : oobReports (s.iRange n) = s.oobEvents n := by
  simp only [oobReports, State.iRange, State.oobEvents, List.filter_map, List.map_map]
  rfl

theorem State.accessOk_of_mask {s : State} {n : Nat} (h : s.cfg.oob = .mask) : s.accessOk n := Or.inl h

/-- With no address above 4095 nothing is reported. -/
theorem State.oobEvents_eq_nil {s : State} {n : Nat} (h : ∀ k < n, s.i.toNat + k ≤ 4095) :
    s.oobEvents n = [] := by
  simp only [State.oobEvents, List.map_eq_nil_iff, List.filter_eq_nil_iff, List.mem_range]
  intro k hk
  have := h k hk
  simp only [decide_eq_true_eq]
  omega

/-- The accesses that are let through: the reports, then the effect. -/
theorem State.access_ok {s : State} {n : Nat} (k : State → State) (h : s.accessOk n) :
    ∃ os, os = s.oobEvents n ∧ s.access (s.iRange n) k = .next (k (s.emit os)) := by
  refine ⟨_, rfl, ?_⟩
  unfold State.access
  rcases hc : s.cfg.oob with _ | _
  · simp [State.oobReports_iRange]
  · have hr : ∀ k < n, s.i.toNat + k ≤ 4095 := by
      rcases h with h | h
      · rw [hc] at h; cases h
      · exact h
    have hf : (s.iRange n).find? (fun e => decide (4095 < e)) = none := by
      simp only [List.find?_eq_none, State.iRange, List.mem_map, List.mem_range, State.iRel]
      rintro e ⟨j, hj, rfl⟩
      have := hr j hj
      simp only [decide_eq_true_eq]
      omega
    have he : s.emit [] = s := by simp [State.emit]
    simp [hf, State.oobEvents_eq_nil hr, he]

/-- Everything the address check can answer. -/
theorem State.access_cases {s : State} {es : List Nat} {k : State → State} {o}
    (h : s.access es k = o) :
    (∃ os, o = .next (k (s.emit os)) ∧ os = (if s.cfg.oob = .mask then oobReports es else [])) ∨
      (s.cfg.oob = .fault ∧ ∃ e ∈ es, 4095 < e ∧ o = .fault (.memOutOfRange e)) := by
  subst h
  unfold State.access
  rcases hc : s.cfg.oob with _ | _
  · exact .inl ⟨_, rfl, by simp⟩
  · rcases hf : es.find? (fun e => decide (4095 < e)) with _ | e
    · refine .inl ⟨[], ?_, by simp⟩
      have : s.emit [] = s := by simp [State.emit]
      simp [this]
    · refine .inr ⟨rfl, e, List.mem_of_find?_eq_some hf, ?_, rfl⟩
      simpa using List.find?_some hf

/-! ### The key number -/

/-- Everything the key number can answer. -/
theorem State.withKeyIndex_cases {s : State} {v : Byte} {k : Nibble → State → State} {o}
    (h : s.withKeyIndex v k = o) :
    (∃ os, o = .next (k (v.extractLsb' 0 4) (s.emit os)) ∧
        os = (if v.toNat ≤ 0x0F then [] else [.diag (.keyOob v)])) ∨
      (s.cfg.keyOob = .fault ∧ 0x0F < v.toNat ∧ o = .fault (.keyOutOfRange v)) := by
  subst h
  unfold State.withKeyIndex
  by_cases hv : v.toNat ≤ 0x0F
  · have : s.emit [] = s := by simp [State.emit]
    exact .inl ⟨[], by simp [hv, this], by simp [hv]⟩
  · rcases hc : s.cfg.keyOob with _ | _
    · exact .inl ⟨[.diag (.keyOob v)], by simp [hv, State.report], by simp [hv]⟩
    · exact .inr ⟨rfl, by omega, by simp [hv]⟩

/-! ### The skip -/

theorem State.skipIf_eq (s : State) (c : Bool) : s.skipIf c = s.setPc (if c then s.pc + 2 else s.pc) := by
  cases c <;> rfl

/-! ### Result and flag -/

/-- A result and its flag: VF ends as the flag (R141). -/
@[simp] theorem State.readV_setResultFlag (s : State) (x k : Nibble) (r f : Byte) :
    (s.setResultFlag x r f).readV k = if k = 0xF#4 then f else if k = x then r else s.readV k := by
  simp [State.setResultFlag]

/-- A logic operation's writes. -/
theorem State.readV_setLogicResult (s : State) (x k : Nibble) (r : Byte) :
    (s.setLogicResult x r).readV k =
      if k = 0xF#4 ∧ s.cfg.logicVF = .cleared then 0 else if k = x then r else s.readV k := by
  unfold State.setLogicResult
  cases s.cfg.logicVF <;> simp

/-- A write of registers alone leaves everything else: `setResultFlag` is `setV` twice, `setLogicResult` once
or twice. -/
theorem State.setLogicResult_eq (s : State) (x : Nibble) (r : Byte) :
    ∃ vs, s.setLogicResult x r = { s with v := vs } := by
  unfold State.setLogicResult
  cases s.cfg.logicVF
  · exact ⟨_, rfl⟩
  · exact ⟨_, rfl⟩

/-! ### Runs of bytes -/

theorem State.storeFrom_mem_only : ∀ (bs : List Byte) (s : State) (e : Nat),
    ∃ m, s.storeFrom e bs = { s with mem := m }
  | [], _, _ => ⟨_, rfl⟩
  | b :: bs, s, e => by
    obtain ⟨m, hm⟩ := State.storeFrom_mem_only bs (s.writeByte (ea e) b) (e + 1)
    exact ⟨m, by rw [State.storeFrom, hm]; rfl⟩

theorem State.memWf_storeFrom : ∀ (bs : List Byte) (s : State) (e : Nat), s.memWf → (s.storeFrom e bs).memWf
  | [], _, _, h => h
  | _ :: bs, _, _, h => State.memWf_storeFrom bs _ _ (State.memWf_writeByte h _ _)

/-- Outside the stored addresses a run of stores leaves every byte. -/
theorem State.readByte_storeFrom_of_not_mem : ∀ (bs : List Byte) (s : State) (e : Nat) (a : Addr),
    (∀ j < bs.length, a ≠ ea (e + j)) → (s.storeFrom e bs).readByte a = s.readByte a
  | [], _, _, _, _ => rfl
  | b :: bs, s, e, a, hn => by
    have h0 : a ≠ ea e := by simpa using hn 0 (by simp)
    rw [State.storeFrom, State.readByte_storeFrom_of_not_mem bs _ _ a, State.readByte_writeByte_of_ne _ h0]
    intro j hj
    have := hn (j + 1) (by simpa using hj)
    rwa [show e + (j + 1) = e + 1 + j by omega] at this

/-- A run of at most 4096 bytes: the j-th stands at the j-th address. -/
theorem State.readByte_storeFrom (bs : List Byte) (s : State) (e j : Nat) (hj : j < bs.length) (h : s.memWf)
    (hl : bs.length ≤ 4096) : (s.storeFrom e bs).readByte (ea (e + j)) = bs[j] := by
  induction bs generalizing s e j with
  | nil => simp at hj
  | cons b bs ih =>
    rw [List.length_cons] at hl hj
    have hw := State.memWf_writeByte h (ea e) b
    cases j with
    | zero =>
      rw [State.storeFrom, State.readByte_storeFrom_of_not_mem _ _ _ _, State.readByte_writeByte h]
      · simp
      · intro j hj hc
        have := congrArg BitVec.toNat hc
        simp only [ea_toNat] at this
        omega
    | succ j =>
      have := ih (s.writeByte (ea e) b) (e + 1) j (by omega) hw (by omega)
      rw [State.storeFrom, show e + (j + 1) = e + 1 + j by omega, this]
      simp

theorem State.loadFrom_v_only : ∀ (bs : List Byte) (s : State) (k : Nat),
    ∃ vs, s.loadFrom k bs = { s with v := vs }
  | [], _, _ => ⟨_, rfl⟩
  | b :: bs, s, k => by
    obtain ⟨vs, hv⟩ := State.loadFrom_v_only bs (s.setV (BitVec.ofNat 4 k) b) (k + 1)
    exact ⟨vs, by rw [State.loadFrom, hv]; rfl⟩

/-- A run of loads that ends at or below VF: V[k], V[k + 1], … take the bytes, the others stay. -/
theorem State.readV_loadFrom (bs : List Byte) (s : State) (k : Nat) (q : Nibble) (hl : k + bs.length ≤ 16) :
    (s.loadFrom k bs).readV q = if k ≤ q.toNat then bs.getD (q.toNat - k) (s.readV q) else s.readV q := by
  induction bs generalizing s k with
  | nil => simp [State.loadFrom]
  | cons b bs ih =>
    rw [List.length_cons] at hl
    have hk : (BitVec.ofNat 4 k).toNat = k := by rw [BitVec.toNat_ofNat]; exact Nat.mod_eq_of_lt (by omega)
    rw [State.loadFrom, ih _ _ (by omega), State.readV_setV]
    by_cases hq : q.toNat = k
    · have h3 : q = BitVec.ofNat 4 k := BitVec.eq_of_toNat_eq (by omega)
      rw [if_neg (by omega), if_pos h3, if_pos (by omega), hq, Nat.sub_self, List.getD_cons_zero]
    · have h3 : q ≠ BitVec.ofNat 4 k := fun hh => hq (by rw [hh, hk])
      rw [if_neg h3]
      by_cases h1 : k + 1 ≤ q.toNat
      · rw [if_pos h1, if_pos (by omega), show q.toNat - k = (q.toNat - (k + 1)) + 1 by omega,
          List.getD_cons_succ]
      · rw [if_neg h1, if_neg (by omega)]

/-! ### What taking a fault leaves (R232, R234) -/

/-- The whole state after a fault: only PC, STATUS, FAULT and the event outputs differ. -/
theorem State.raiseFault_eq (s : State) (c : FaultCause) (op : Word) :
    s.raiseFault c op = { s with
      pc := s.pc - 2, status := .halted, fault := { cause := c, pc := s.pc - 2, op := op },
      events := s.events ++ [.diag (.stackFault c (s.pc - 2) op)] } := rfl

end Sys2Proof.Machine
end

