-- ==== Sys2Proof/Laws/Display.lean ====
section
/-! SUPPORT. What the two loops of the sprite draw do: a pixel that a set bit covers is flipped once, and c says
whether a covered pixel was on. -/

namespace Sys2Proof.Machine

/-- The pixel (px, py) is covered by a set bit b .. b + m − 1 of a row drawn at x0 on screen row y. -/
def rowCovers (row : Byte) (x0 y b m px py : Nat) : Bool :=
  decide (py = y ∧ y < 32 ∧ px < 64 ∧ x0 + b ≤ px ∧ px < x0 + b + m) && row.getLsbD (7 - (px - x0))

theorem rowCovers_zero (row : Byte) (x0 y b px py : Nat) : rowCovers row x0 y b 0 px py = false := by
  simp only [rowCovers, Bool.and_eq_false_iff, decide_eq_false_iff_not]
  omega

/-- The first bit, and the rest. -/
theorem rowCovers_succ (row : Byte) (x0 y b m px py : Nat) :
    rowCovers row x0 y b (m + 1) px py =
      ((decide (px = x0 + b ∧ py = y ∧ y < 32 ∧ x0 + b < 64) && row.getLsbD (7 - b))
        || rowCovers row x0 y (b + 1) m px py) := by
  by_cases h : px = x0 + b
  · subst h
    have e : x0 + b - x0 = b := by omega
    have h1 : ¬(py = y ∧ y < 32 ∧ x0 + b < 64 ∧ x0 + (b + 1) ≤ x0 + b ∧ x0 + b < x0 + (b + 1) + m) := by omega
    have h2 : (py = y ∧ y < 32 ∧ x0 + b < 64 ∧ x0 + b ≤ x0 + b ∧ x0 + b < x0 + b + (m + 1)) ↔
        (py = y ∧ y < 32 ∧ x0 + b < 64) := by omega
    simp only [rowCovers, e, h1, decide_false, Bool.false_and, Bool.or_false, h2, true_and]
  · have h1 : (py = y ∧ y < 32 ∧ px < 64 ∧ x0 + b ≤ px ∧ px < x0 + b + (m + 1)) ↔
        (py = y ∧ y < 32 ∧ px < 64 ∧ x0 + (b + 1) ≤ px ∧ px < x0 + (b + 1) + m) := by omega
    simp only [rowCovers, h1, h, false_and, decide_false, Bool.false_and, Bool.false_or]

/-- Past the right edge nothing is covered. -/
theorem rowCovers_off (row : Byte) {x0 y b m px py : Nat} (h : 64 ≤ x0 + b) :
    rowCovers row x0 y b m px py = false := by
  simp only [rowCovers, Bool.and_eq_false_iff, decide_eq_false_iff_not]
  omega

/-- The inner loop on the pixels. -/
theorem drawRow_get (row : Byte) (x0 y px py m : Nat) : ∀ (b : Nat) (d : Drawing),
    Framebuffer.get (drawRow row x0 y (List.range' b m) d).1 px py =
      (Framebuffer.get d.1 px py ^^ rowCovers row x0 y b m px py) := by
  induction m with
  | zero => intro b d; simp [drawRow, rowCovers_zero]
  | succ m ih =>
    intro b d
    rw [List.range'_succ, drawRow]
    by_cases hx : 64 ≤ x0 + b
    · simp [hx, rowCovers_off row hx]
    · rw [if_neg hx]
      by_cases hr : row.getLsbD (7 - b) = true
      · rw [if_pos hr, ih, rowCovers_succ, Framebuffer.get_flip, hr, Bool.and_true]
        by_cases hp : px = x0 + b ∧ py = y ∧ y < 32 ∧ x0 + b < 64
        · have hc : rowCovers row x0 y (b + 1) m px py = false := by
            simp only [rowCovers, Bool.and_eq_false_iff, decide_eq_false_iff_not]
            omega
          rw [hc, if_pos hp, decide_eq_true hp]
          simp
        · simp [hp]
      · have hr' : row.getLsbD (7 - b) = false := by simpa using hr
        rw [if_neg hr, ih, rowCovers_succ, hr']
        simp

/-- The inner loop on c. -/
theorem drawRow_hit (row : Byte) (x0 y m : Nat) : ∀ (b : Nat) (d : Drawing),
    (drawRow row x0 y (List.range' b m) d).2 = true ↔
      d.2 = true ∨ ∃ px py, rowCovers row x0 y b m px py = true ∧ Framebuffer.get d.1 px py = true := by
  induction m with
  | zero => intro b d; simp [drawRow, rowCovers_zero]
  | succ m ih =>
    intro b d
    rw [List.range'_succ, drawRow]
    by_cases hx : 64 ≤ x0 + b
    · simp [hx, rowCovers_off row hx]
    · rw [if_neg hx]
      by_cases hr : row.getLsbD (7 - b) = true
      · rw [if_pos hr, ih]
        simp only [Bool.or_eq_true, Framebuffer.get_flip, rowCovers_succ, hr, Bool.and_true, decide_eq_true_eq]
        constructor
        · rintro ((h | h) | ⟨px, py, hc, hg⟩)
          · exact .inl h
          · refine .inr ⟨x0 + b, y, .inl ⟨rfl, rfl, ?_, by omega⟩, h⟩
            by_contra hy
            rw [Framebuffer.get_of_ge (fun hh => hy hh.1)] at h
            cases h
          · refine .inr ⟨px, py, .inr hc, ?_⟩
            rw [if_neg] at hg
            · exact hg
            · simp only [rowCovers, Bool.and_eq_true, decide_eq_true_eq] at hc
              omega
        · rintro (h | ⟨px, py, (⟨rfl, rfl, _, _⟩ | hc), hg⟩)
          · exact .inl (.inl h)
          · exact .inl (.inr hg)
          · refine .inr ⟨px, py, hc, ?_⟩
            rw [if_neg]
            · exact hg
            · simp only [rowCovers, Bool.and_eq_true, decide_eq_true_eq] at hc
              omega
      · have hr' : row.getLsbD (7 - b) = false := by simpa using hr
        rw [if_neg hr, ih]
        simp [rowCovers_succ, hr']

/-- The pixel (px, py) is on the screen and covered by a set bit of the sprite rows r .. r + m − 1. -/
def spriteCovers (rowAt : Nat → Byte) (x0 y0 r m px py : Nat) : Bool :=
  decide (py < 32 ∧ px < 64 ∧ y0 + r ≤ py ∧ py < y0 + r + m ∧ x0 ≤ px ∧ px < x0 + 8)
    && (rowAt (py - y0)).getLsbD (7 - (px - x0))

theorem spriteCovers_zero (rowAt : Nat → Byte) (x0 y0 r px py : Nat) :
    spriteCovers rowAt x0 y0 r 0 px py = false := by
  simp only [spriteCovers, Bool.and_eq_false_iff, decide_eq_false_iff_not]
  omega

/-- The first row, and the rest. -/
theorem spriteCovers_succ (rowAt : Nat → Byte) (x0 y0 r m px py : Nat) :
    spriteCovers rowAt x0 y0 r (m + 1) px py =
      (rowCovers (rowAt r) x0 (y0 + r) 0 8 px py || spriteCovers rowAt x0 y0 (r + 1) m px py) := by
  by_cases h : py = y0 + r
  · subst h
    have e : y0 + r - y0 = r := by omega
    have h1 : ¬(y0 + r < 32 ∧ px < 64 ∧ y0 + (r + 1) ≤ y0 + r ∧ y0 + r < y0 + (r + 1) + m ∧ x0 ≤ px ∧
        px < x0 + 8) := by omega
    have h2 : (y0 + r < 32 ∧ px < 64 ∧ y0 + r ≤ y0 + r ∧ y0 + r < y0 + r + (m + 1) ∧ x0 ≤ px ∧ px < x0 + 8) ↔
        (y0 + r = y0 + r ∧ y0 + r < 32 ∧ px < 64 ∧ x0 + 0 ≤ px ∧ px < x0 + 0 + 8) := by omega
    simp only [spriteCovers, rowCovers, e, h1, decide_false, Bool.false_and, Bool.or_false, h2]
  · have h1 : (py < 32 ∧ px < 64 ∧ y0 + r ≤ py ∧ py < y0 + r + (m + 1) ∧ x0 ≤ px ∧ px < x0 + 8) ↔
        (py < 32 ∧ px < 64 ∧ y0 + (r + 1) ≤ py ∧ py < y0 + (r + 1) + m ∧ x0 ≤ px ∧ px < x0 + 8) := by omega
    have h2 : ¬(py = y0 + r ∧ y0 + r < 32 ∧ px < 64 ∧ x0 + 0 ≤ px ∧ px < x0 + 0 + 8) := by omega
    simp only [spriteCovers, rowCovers, h1, h2, decide_false, Bool.false_and, Bool.false_or]

/-- Past the bottom edge nothing is covered. -/
theorem spriteCovers_off (rowAt : Nat → Byte) {x0 y0 r m px py : Nat} (h : 32 ≤ y0 + r) :
    spriteCovers rowAt x0 y0 r m px py = false := by
  simp only [spriteCovers, Bool.and_eq_false_iff, decide_eq_false_iff_not]
  omega

/-- A later row covers no pixel of this one. -/
theorem spriteCovers_disjoint (rowAt : Nat → Byte) {x0 y0 r m px py : Nat}
    (h : rowCovers (rowAt r) x0 (y0 + r) 0 8 px py = true) :
    spriteCovers rowAt x0 y0 (r + 1) m px py = false := by
  simp only [rowCovers, Bool.and_eq_true, decide_eq_true_eq] at h
  simp only [spriteCovers, Bool.and_eq_false_iff, decide_eq_false_iff_not]
  omega

/-- The outer loop on the pixels. -/
theorem drawRows_get (rowAt : Nat → Byte) (x0 y0 px py m : Nat) : ∀ (r : Nat) (d : Drawing),
    Framebuffer.get (drawRows rowAt x0 y0 (List.range' r m) d).1 px py =
      (Framebuffer.get d.1 px py ^^ spriteCovers rowAt x0 y0 r m px py) := by
  induction m with
  | zero => intro r d; simp [drawRows, spriteCovers_zero]
  | succ m ih =>
    intro r d
    rw [List.range'_succ, drawRows]
    by_cases hy : 32 ≤ y0 + r
    · simp [hy, spriteCovers_off rowAt hy]
    · rw [if_neg hy, ih, List.range_eq_range', drawRow_get, spriteCovers_succ]
      rcases hc : rowCovers (rowAt r) x0 (y0 + r) 0 8 px py with _ | _
      · simp
      · simp [spriteCovers_disjoint rowAt hc]

/-- The outer loop on c: a covered pixel was on before the draw. -/
theorem drawRows_hit (rowAt : Nat → Byte) (x0 y0 m : Nat) : ∀ (r : Nat) (d : Drawing),
    (drawRows rowAt x0 y0 (List.range' r m) d).2 = true ↔
      d.2 = true ∨ ∃ px py, spriteCovers rowAt x0 y0 r m px py = true ∧ Framebuffer.get d.1 px py = true := by
  induction m with
  | zero => intro r d; simp [drawRows, spriteCovers_zero]
  | succ m ih =>
    intro r d
    rw [List.range'_succ, drawRows]
    by_cases hy : 32 ≤ y0 + r
    · simp [hy, spriteCovers_off rowAt hy]
    · rw [if_neg hy, ih, List.range_eq_range', drawRow_hit]
      simp only [drawRow_get, spriteCovers_succ, Bool.or_eq_true]
      constructor
      · rintro ((h | ⟨px, py, hc, hg⟩) | ⟨px, py, hc, hg⟩)
        · exact .inl h
        · exact .inr ⟨px, py, .inl hc, hg⟩
        · refine .inr ⟨px, py, .inr hc, ?_⟩
          rcases hr : rowCovers (rowAt r) x0 (y0 + r) 0 8 px py with _ | _
          · simpa [hr] using hg
          · rw [spriteCovers_disjoint rowAt hr] at hc; cases hc
      · rintro (h | ⟨px, py, (hc | hc), hg⟩)
        · exact .inl (.inl h)
        · exact .inl (.inr ⟨px, py, hc, hg⟩)
        · refine .inr ⟨px, py, hc, ?_⟩
          rcases hr : rowCovers (rowAt r) x0 (y0 + r) 0 8 px py with _ | _
          · simpa [hr] using hg
          · rw [spriteCovers_disjoint rowAt hr] at hc; cases hc

/-- The sprite of a draw, in the words of the claims. -/
theorem State.spriteSets_eq (s : State) (x y n : Nibble) {px py : Nat} (hx : px < 64) (hy : py < 32) :
    spriteCovers s.spriteRow (s.originX x) (s.originY y) 0 n.toNat px py = s.spriteSets x y n px py := by
  simp only [spriteCovers, State.spriteSets, State.originX, State.originY, State.spriteRow, hx, hy, true_and,
    State.addrAtI_eq, Nat.add_zero]
  congr 2
  exact propext ⟨fun h => ⟨h.2.2.1, h.2.2.2, h.1, h.2.1⟩, fun h => ⟨h.2.2.1, h.2.2.2, h.1, h.2.1⟩⟩

/-- The draw on the pixels of the screen. -/
theorem State.drawSprite_get (s : State) (x y n : Nibble) {px py : Nat} (hx : px < 64) (hy : py < 32) :
    Framebuffer.get (s.drawSprite x y n).1 px py = (s.pixel px py ^^ s.spriteSets x y n px py) := by
  rw [State.drawSprite, List.range_eq_range', drawRows_get, State.spriteSets_eq s x y n hx hy]
  rfl

/-- The draw on c. -/
theorem State.drawSprite_hit (s : State) (x y n : Nibble) :
    (s.drawSprite x y n).2 = true ↔
      ∃ px py, px < 64 ∧ py < 32 ∧ s.spriteSets x y n px py = true ∧ s.pixel px py = true := by
  rw [State.drawSprite, List.range_eq_range', drawRows_hit]
  constructor
  · rintro (h | ⟨px, py, hc, hg⟩)
    · cases h
    · have hc' := hc
      simp only [spriteCovers, Bool.and_eq_true, decide_eq_true_eq] at hc'
      exact ⟨px, py, hc'.1.2.1, hc'.1.1, by rwa [← State.spriteSets_eq s x y n hc'.1.2.1 hc'.1.1], hg⟩
  · rintro ⟨px, py, hx, hy, hc, hg⟩
    exact .inr ⟨px, py, by rwa [State.spriteSets_eq s x y n hx hy], hg⟩

end Sys2Proof.Machine
end

