-- ==== Sys2Proof/Laws/Frames.lean ====
section
/-! SUPPORT. Frames: how `Preserves` composes, and the footprint of each update and shared operation. -/

namespace Sys2Proof.Machine

/-- One footprint inside another. -/
structure Footprint.Within (a b : Footprint) : Prop where
  v : ∀ k ∈ a.v, k ∈ b.v := by simp
  stored : ∀ k ∈ a.stored, k ∈ b.stored := by simp
  i : a.i = true → b.i = true := by simp
  pc : a.pc = true → b.pc = true := by simp
  stack : a.stack = true → b.stack = true := by simp
  sp : a.sp = true → b.sp = true := by simp
  dt : a.dt = true → b.dt = true := by simp
  st : a.st = true → b.st = true := by simp
  keys : a.keys = true → b.keys = true := by simp
  fb : a.fb = true → b.fb = true := by simp
  dirty : a.dirty = true → b.dirty = true := by simp
  status : a.status = true → b.status = true := by simp
  fault : a.fault = true → b.fault = true := by simp
  fbWe : a.fbWe = true → b.fbWe = true := by simp
  events : a.events = true → b.events = true := by simp
  draws : a.draws = true → b.draws = true := by simp

theorem eq_false_of_imp {a b : Bool} (h : a = true → b = true) (hb : b = false) : a = false := by
  cases a <;> simp_all

/-- A larger footprint promises less. -/
theorem Preserves.weaken {a b : Footprint} {s t : State} (h : Preserves a s t) (hw : a.Within b) :
    Preserves b s t where
  v := fun k hk => h.v k (fun hh => hk (hw.v k hh))
  mem := fun k hk => h.mem k (fun hh => hk (hw.stored k hh))
  i := fun hb => h.i (eq_false_of_imp hw.i hb)
  pc := fun hb => h.pc (eq_false_of_imp hw.pc hb)
  stack := fun hb => h.stack (eq_false_of_imp hw.stack hb)
  sp := fun hb => h.sp (eq_false_of_imp hw.sp hb)
  dt := fun hb => h.dt (eq_false_of_imp hw.dt hb)
  st := fun hb => h.st (eq_false_of_imp hw.st hb)
  keys := fun hb => h.keys (eq_false_of_imp hw.keys hb)
  fb := fun hb => h.fb (eq_false_of_imp hw.fb hb)
  dirty := fun hb => h.dirty (eq_false_of_imp hw.dirty hb)
  status := fun hb => h.status (eq_false_of_imp hw.status hb)
  fault := fun hb => h.fault (eq_false_of_imp hw.fault hb)
  fbWe := fun hb => h.fbWe (eq_false_of_imp hw.fbWe hb)
  events := fun hb => h.events (eq_false_of_imp hw.events hb)
  draws := fun hb => h.draws (eq_false_of_imp hw.draws hb)
  cfg := h.cfg

theorem Preserves.refl (fp : Footprint) (s : State) : Preserves fp s s := by
  constructor <;> intros <;> rfl

theorem Preserves.trans {fp : Footprint} {s t u : State} (h : Preserves fp s t) (h' : Preserves fp t u) :
    Preserves fp s u where
  v := fun k hk => (h'.v k hk).trans (h.v k hk)
  mem := fun k hk => (h'.mem k hk).trans (h.mem k hk)
  i := fun hb => (h'.i hb).trans (h.i hb)
  pc := fun hb => (h'.pc hb).trans (h.pc hb)
  stack := fun hb => (h'.stack hb).trans (h.stack hb)
  sp := fun hb => (h'.sp hb).trans (h.sp hb)
  dt := fun hb => (h'.dt hb).trans (h.dt hb)
  st := fun hb => (h'.st hb).trans (h.st hb)
  keys := fun hb => (h'.keys hb).trans (h.keys hb)
  fb := fun hb => (h'.fb hb).trans (h.fb hb)
  dirty := fun hb => (h'.dirty hb).trans (h.dirty hb)
  status := fun hb => (h'.status hb).trans (h.status hb)
  fault := fun hb => (h'.fault hb).trans (h.fault hb)
  fbWe := fun hb => (h'.fbWe hb).trans (h.fbWe hb)
  events := fun hb => (h'.events hb).trans (h.events hb)
  draws := fun hb => (h'.draws hb).trans (h.draws hb)
  cfg := h'.cfg.trans h.cfg

/-! ### One footprint per update -/

section
variable (s : State)

theorem Preserves.setV (x : Nibble) (b : Byte) : Preserves { v := [x] } s (s.setV x b) := by
  constructor
  case v =>
    intro k hk
    rw [State.readV_setV, if_neg (by simpa using hk)]
  all_goals intros; rfl

theorem Preserves.setI (w : Word) : Preserves { i := true } s (s.setI w) := by
  constructor
  case i => intro h; cases h
  all_goals intros; rfl

theorem Preserves.setPc (w : Word) : Preserves { pc := true } s (s.setPc w) := by
  constructor
  case pc => intro h; cases h
  all_goals intros; rfl

theorem Preserves.setDt (b : Byte) : Preserves { dt := true } s (s.setDt b) := by
  constructor
  case dt => intro h; cases h
  all_goals intros; rfl

theorem Preserves.setSt (b : Byte) : Preserves { st := true } s (s.setSt b) := by
  constructor
  case st => intro h; cases h
  all_goals intros; rfl

theorem Preserves.setStatus (x : Status) : Preserves { status := true } s (s.setStatus x) := by
  constructor
  case status => intro h; cases h
  all_goals intros; rfl

theorem Preserves.setDirty (b : Bool) : Preserves { dirty := true } s (s.setDirty b) := by
  constructor
  case dirty => intro h; cases h
  all_goals intros; rfl

theorem Preserves.setFbWe (b : Bool) : Preserves { fbWe := true } s (s.setFbWe b) := by
  constructor
  case fbWe => intro h; cases h
  all_goals intros; rfl

theorem Preserves.emit (os : List Output) : Preserves { events := true } s (s.emit os) := by
  constructor
  case events => intro h; cases h
  all_goals intros; rfl

theorem Preserves.takeRnd : Preserves { draws := true } s s.takeRnd := by
  constructor
  case draws => intro h; cases h
  all_goals intros; rfl

theorem Preserves.key (k : Nibble) (b : Bool) : Preserves { keys := true } s (s.key k b) := by
  constructor
  case keys => intro h; cases h
  all_goals intros; rfl

theorem Preserves.push (w : Word) (h : s.sp.val < 12) :
    Preserves { stack := true, sp := true } s (s.push w h) := by
  constructor
  case stack => intro h; cases h
  case sp => intro h; cases h
  all_goals intros; rfl

theorem Preserves.popToPc (h : 0 < s.sp.val) : Preserves { sp := true, pc := true } s (s.popToPc h) := by
  constructor
  case pc => intro h; cases h
  case sp => intro h; cases h
  all_goals intros; rfl

theorem Preserves.paint (fb : Framebuffer) : Preserves { fb := true, dirty := true } s (s.paint fb) := by
  constructor
  case fb => intro h; cases h
  case dirty => intro h; cases h
  all_goals intros; rfl

theorem Preserves.raiseFault (c : FaultCause) (op : Word) :
    Preserves { pc := true, status := true, fault := true, events := true } s (s.raiseFault c op) := by
  constructor
  case pc => intro h; cases h
  case status => intro h; cases h
  case fault => intro h; cases h
  case events => intro h; cases h
  all_goals intros; rfl

theorem Preserves.setResultFlag (x : Nibble) (r f : Byte) :
    Preserves { v := [x, 0xF#4] } s (s.setResultFlag x r f) :=
  ((Preserves.setV s x r).weaken { }).trans ((Preserves.setV _ 0xF#4 f).weaken { })

theorem Preserves.skipIf (c : Bool) : Preserves { pc := true } s (s.skipIf c) := by
  rw [State.skipIf_eq]; exact Preserves.setPc s _

theorem Preserves.storeFrom {s : State} (bs : List Byte) (e : Nat) :
    Preserves { stored := (List.range bs.length).map (fun k => ea (e + k)) } s (s.storeFrom e bs) := by
  have hm : ∀ a, a ∉ (List.range bs.length).map (fun k => ea (e + k)) →
      (s.storeFrom e bs).readByte a = s.readByte a := fun a ha =>
    State.readByte_storeFrom_of_not_mem bs s e a fun j hj hc =>
      ha (List.mem_map.2 ⟨j, List.mem_range.2 hj, hc.symm⟩)
  obtain ⟨m, he⟩ := State.storeFrom_mem_only bs s e
  constructor
  case mem => exact hm
  all_goals (intros; rw [he]; try rfl)

theorem Preserves.loadFrom {s : State} (bs : List Byte) (h : bs.length ≤ 16) :
    Preserves { v := (List.range bs.length).map (BitVec.ofNat 4) } s (s.loadFrom 0 bs) := by
  have hv : ∀ k, k ∉ (List.range bs.length).map (BitVec.ofNat 4) →
      (s.loadFrom 0 bs).readV k = s.readV k := by
    intro k hk
    rw [State.readV_loadFrom bs s 0 k (by omega), if_pos (Nat.zero_le _), Nat.sub_zero]
    have : bs.length ≤ k.toNat := by
      by_contra hlt
      exact hk (List.mem_map.2 ⟨k.toNat, List.mem_range.2 (by omega), by simp⟩)
    rw [List.getD_eq_getElem?_getD, List.getElem?_eq_none this, Option.getD_none]
  obtain ⟨vs, he⟩ := State.loadFrom_v_only bs s 0
  constructor
  case v => exact hv
  all_goals (intros; rw [he]; try rfl)

theorem Preserves.advanceI (x : Nibble) : Preserves { i := true } s (s.advanceI x) := by
  unfold State.advanceI
  split
  · exact Preserves.setI s _
  · exact Preserves.refl _ s

end

end Sys2Proof.Machine
end

