-- ==== Sys2Proof/Laws/Step.lean ====
section
/-! SUPPORT. What a step can do, said once, and what the body of an instruction can do to the parts of state that
the invariant speaks of. -/

namespace Sys2Proof.Machine

/-! ### The fetch -/

theorem fetchAddr_eq (a : Word) : fetchAddr a = BitVec.ofNat 12 (a.toNat % 4096) :=
  BitVec.eq_of_toNat_eq (by simp [fetchAddr, BitVec.toNat_ofNat])

theorem fetchAddr_add_one (a : Word) : fetchAddr a + 1 = BitVec.ofNat 12 ((a.toNat + 1) % 4096) :=
  BitVec.eq_of_toNat_eq (by simp [fetchAddr, BitVec.toNat_ofNat, BitVec.toNat_add])

/-- The fetched word decodes to the current instruction. -/
theorem State.current_eq (s : State) : s.current = decodeWord s.cfg.strict59 s.fetchWord := by
  rw [State.current, State.fetchWord, fetchAddr_add_one, fetchAddr_eq]
  rfl

theorem State.fetchReports_eq (s : State) : s.fetchReports = s.pcEvents := by
  simp [State.fetchReports, State.pcEvents, State.pcBeyond]

/-- A fetch that is not stopped. -/
theorem State.fetch_ok {s : State} (h : s.fetchOk) : s.fetch = .ok (s.fetchWord, s.emit s.pcEvents) := by
  unfold State.fetch
  rw [State.fetchReports_eq]
  rcases h with h | h
  · rw [h]; cases s.pcBeyond <;> rfl
  · have : s.pcBeyond = false := by simp only [State.pcBeyond, decide_eq_false_iff_not]; omega
    rw [this]

/-- A fetch that is stopped. -/
theorem State.fetch_stopped {s : State} (h : ¬s.fetchOk) : s.fetch = .error (.pcOutOfRange s.pc) := by
  simp only [State.fetchOk, not_or] at h
  have h1 : s.pcBeyond = true := by simp only [State.pcBeyond, decide_eq_true_eq]; omega
  have h2 : s.cfg.oob = .fault := by
    rcases hc : s.cfg.oob with _ | _
    · exact absurd hc h.1
    · rfl
  unfold State.fetch
  rw [h1, h2]

/-- The state a body begins in. -/
def State.entered (s : State) : State := (s.emit s.pcEvents).advance

theorem Preserves.entered (s : State) : Preserves { pc := true, events := true } s s.entered :=
  ((Preserves.emit s _).weaken { }).trans ((Preserves.setPc _ _).weaken { })

@[simp] theorem State.entered_pc (s : State) : s.entered.pc = s.pc + 2 := rfl
@[simp] theorem State.entered_events (s : State) : s.entered.events = s.events ++ s.pcEvents := rfl
@[simp] theorem State.entered_mem (s : State) : s.entered.mem = s.mem := rfl
@[simp] theorem State.entered_v (s : State) : s.entered.v = s.v := rfl
@[simp] theorem State.entered_i (s : State) : s.entered.i = s.i := rfl
@[simp] theorem State.entered_stack (s : State) : s.entered.stack = s.stack := rfl
@[simp] theorem State.entered_sp (s : State) : s.entered.sp = s.sp := rfl
@[simp] theorem State.entered_dt (s : State) : s.entered.dt = s.dt := rfl
@[simp] theorem State.entered_st (s : State) : s.entered.st = s.st := rfl
@[simp] theorem State.entered_keys (s : State) : s.entered.keys = s.keys := rfl
@[simp] theorem State.entered_fb (s : State) : s.entered.fb = s.fb := rfl
@[simp] theorem State.entered_dirty (s : State) : s.entered.dirty = s.dirty := rfl
@[simp] theorem State.entered_status (s : State) : s.entered.status = s.status := rfl
@[simp] theorem State.entered_fault (s : State) : s.entered.fault = s.fault := rfl
@[simp] theorem State.entered_fbWe (s : State) : s.entered.fbWe = s.fbWe := rfl
@[simp] theorem State.entered_draws (s : State) : s.entered.draws = s.draws := rfl
@[simp] theorem State.entered_cfg (s : State) : s.entered.cfg = s.cfg := rfl
@[simp] theorem State.entered_readV (s : State) (k : Nibble) : s.entered.readV k = s.readV k := rfl
@[simp] theorem State.entered_readByte (s : State) (a : Addr) : s.entered.readByte a = s.readByte a := rfl
@[simp] theorem State.entered_pixel (s : State) (px py : Nat) : s.entered.pixel px py = s.pixel px py := rfl

/-! ### The step -/

/-- A running step of a word that decodes. -/
theorem step_decoded {s : State} {i : Instr} (hr : s.status = .running) (hf : s.fetchOk)
    (hc : s.current = .ok i) :
    step s = retire s.pc s.fetchWord i.writesDisplay (exec i s.entered) := by
  rw [State.current_eq] at hc
  simp only [step, hr, State.fetch_ok hf, hc]
  rfl

/-- A running step of an unknown word. -/
theorem step_unknown {s : State} {e : DecodeError} (hr : s.status = .running) (hf : s.fetchOk)
    (hc : s.current = .error e) :
    step s = .next ((s.entered.unknownOpcode s.fetchWord).endStep s.pc s.fetchWord false) := by
  rw [State.current_eq] at hc
  simp only [step, hr, State.fetch_ok hf, hc]
  rfl

/-- A step of a machine that does not run. -/
theorem step_not_running {s : State} (h : s.status ≠ .running) : step s = .next s := by
  unfold step
  rcases hc : s.status with _ | _ | _
  · exact absurd hc h
  · rfl
  · rfl

/-- Everything a step that answers next can do. -/
theorem step_cases {s t : State} (h : step s = .next t) :
    (s.status ≠ .running ∧ t = s) ∨
    (s.status = .running ∧ s.fetchOk ∧
      ((∃ i u, s.current = .ok i ∧ exec i s.entered = .next u ∧
          t = u.endStep s.pc s.fetchWord i.writesDisplay) ∨
       (∃ e, s.current = .error e ∧
          t = (s.entered.unknownOpcode s.fetchWord).endStep s.pc s.fetchWord false))) := by
  by_cases hr : s.status = .running
  · by_cases hf : s.fetchOk
    · refine .inr ⟨hr, hf, ?_⟩
      rcases hc : s.current with e | i
      · rw [step_unknown hr hf hc] at h
        exact .inr ⟨e, rfl, (Host.Outcome.next.inj h).symm⟩
      · rw [step_decoded hr hf hc] at h
        rcases he : exec i s.entered with u | f | r
        · rw [he] at h
          exact .inl ⟨i, u, rfl, he, (Host.Outcome.next.inj h).symm⟩
        · rw [he] at h; cases h
        · rw [he] at h; cases h
    · simp only [step, hr, State.fetch_stopped hf] at h
      cases h
  · rw [step_not_running hr] at h
    exact .inl ⟨hr, (Host.Outcome.next.inj h).symm⟩

/-- The end of a step touches the outputs alone. -/
theorem Preserves.endStep (t : State) (a op : Word) (d : Bool) :
    Preserves { events := true, fbWe := true } t (t.endStep a op d) := by
  unfold State.endStep
  cases t.status
  · simp only
    split
    · exact ((Preserves.setFbWe t d).weaken { }).trans ((Preserves.emit _ _).weaken { })
    · exact (Preserves.setFbWe t d).weaken { }
  · exact (Preserves.setFbWe t false).weaken { }
  · exact (Preserves.setFbWe t false).weaken { }

@[simp] theorem State.endStep_mem (t : State) (a op : Word) (d : Bool) : (t.endStep a op d).mem = t.mem := by
  unfold State.endStep
  cases t.status <;> simp only
  · split <;> rfl
  all_goals rfl

/-- A step that went on: FB_WE as the instruction says, and the trace if it is on. -/
theorem State.endStep_running {t : State} (h : t.status = .running) (a op : Word) (d : Bool) :
    t.endStep a op d = { t with
      fbWe := d, events := t.events ++ (if t.cfg.trace then [.trace a op] else []) } := by
  have he : t.endStep a op d =
      if t.cfg.trace then (t.setFbWe d).emit [.trace a op] else t.setFbWe d := by
    unfold State.endStep
    rw [h]
  rw [he]
  cases t.cfg.trace
  · simp [State.setFbWe]
  · rfl

/-- A step whose body halted. -/
theorem State.endStep_stopped {t : State} (h : t.status ≠ .running) (a op : Word) (d : Bool) :
    t.endStep a op d = { t with fbWe := false } := by
  have he : t.endStep a op d = t.setFbWe false := by
    unfold State.endStep
    cases hc : t.status
    · exact absurd hc h
    · rfl
    · rfl
  rw [he]
  rfl

/-! ### The body -/

/-- No arm of exec refuses, and at the mask policies none faults: every instruction answers next. -/
theorem exec_answers {i : Instr} {s : State} (ho : s.cfg.oob = .mask) (hk : s.cfg.keyOob = .mask) :
    ∃ t, exec i s = .next t := by
  have hacc : ∀ es k, ∃ t, s.access es k = .next t := fun es k => by
    rcases State.access_cases (s := s) (es := es) (k := k) rfl with ⟨os, h, _⟩ | ⟨h, _⟩
    · exact ⟨_, h⟩
    · rw [ho] at h; cases h
  have hkey : ∀ v k, ∃ t, s.withKeyIndex v k = .next t := fun v k => by
    rcases State.withKeyIndex_cases (s := s) (v := v) (k := k) rfl with ⟨os, h, _⟩ | ⟨h, _⟩
    · exact ⟨_, h⟩
    · rw [hk] at h; cases h
  cases i
  case ret x => unfold exec execRet; simp only; split <;> exact ⟨_, rfl⟩
  case call nnn => unfold exec execCall; simp only; split <;> exact ⟨_, rfl⟩
  case ldVxK x => unfold exec execLdVxK; simp only; split <;> exact ⟨_, rfl⟩
  case drw x y n => unfold exec execDrw; exact hacc _ _
  case ldB x => unfold exec execLdB; exact hacc _ _
  case stRegs x => unfold exec execStRegs; exact hacc _ _
  case ldRegs x => unfold exec execLdRegs; exact hacc _ _
  case skp x => unfold exec execSkp; exact hkey _ _
  case sknp x => unfold exec execSknp; exact hkey _ _
  all_goals exact ⟨_, rfl⟩

/-- No arm of exec refuses. -/
theorem exec_not_refused (i : Instr) (s : State) (r : Refusal) : exec i s ≠ .refused r := by
  have hacc : ∀ es k, s.access es k ≠ .refused r := fun es k h => by
    rcases State.access_cases h with ⟨os, h, _⟩ | ⟨_, e, _, _, h⟩ <;> cases h
  have hkey : ∀ v k, s.withKeyIndex v k ≠ .refused r := fun v k h => by
    rcases State.withKeyIndex_cases h with ⟨os, h, _⟩ | ⟨_, _, h⟩ <;> cases h
  cases i
  case ret x => unfold exec execRet; simp only; split <;> exact fun h => by cases h
  case call nnn => unfold exec execCall; simp only; split <;> exact fun h => by cases h
  case ldVxK x => unfold exec execLdVxK; simp only; split <;> exact fun h => by cases h
  case drw x y n => unfold exec execDrw; exact hacc _ _
  case ldB x => unfold exec execLdB; exact hacc _ _
  case stRegs x => unfold exec execStRegs; exact hacc _ _
  case ldRegs x => unfold exec execLdRegs; exact hacc _ _
  case skp x => unfold exec execSkp; exact hkey _ _
  case sknp x => unfold exec execSknp; exact hkey _ _
  all_goals exact fun h => by cases h

end Sys2Proof.Machine
end

