-- ==== Sys2Proof/Laws/Exec.lean ====
section
/-! SUPPORT. What the body of each instruction can do: its footprint, and when it halts. Claims about all
instructions cite these instead of unfolding a meaning. -/

namespace Sys2Proof.Machine

/-- What the body of an instruction may change, from the state it begins in. -/
def footprint (s : State) : Instr → Footprint
  | .cls _ => { fb := true, dirty := true }
  | .ret _ => { sp := true, pc := true, status := true, fault := true, events := true }
  | .sys _ => { events := true }
  | .jp _ | .jpV0 _ | .seImm _ _ | .sneImm _ _ | .seReg _ _ _ | .sneReg _ _ _ => { pc := true }
  | .call _ =>
    { stack := true, sp := true, pc := true, status := true, fault := true, events := true }
  | .ldImm x _ | .addImm x _ | .ldReg x _ | .ldVxDt x => { v := [x] }
  | .orReg x _ | .andReg x _ | .xorReg x _ =>
    { v := if s.cfg.logicVF = .cleared then [x, 0xF#4] else [x] }
  | .addReg x _ | .sub x _ | .shr x _ | .subn x _ | .shl x _ => { v := [x, 0xF#4] }
  | .ldI _ | .addI _ | .ldF _ => { i := true }
  | .rnd x _ => { v := [x], draws := true }
  | .drw _ _ _ => { v := [0xF#4], fb := true, dirty := true, events := true }
  | .skp _ | .sknp _ => { pc := true, events := true }
  | .ldVxK x => { v := [x], pc := true }
  | .ldDtVx _ => { dt := true }
  | .ldStVx _ => { st := true }
  | .ldB _ => { stored := (List.range 3).map s.addrAtI, events := true }
  | .stRegs x =>
    { stored := (List.range (x.toNat + 1)).map s.addrAtI, i := s.cfg.ldstIncI, events := true }
  | .ldRegs x =>
    { v := (List.range (x.toNat + 1)).map (BitVec.ofNat 4), i := s.cfg.ldstIncI, events := true }

theorem Preserves.setLogicResult (s : State) (x : Nibble) (r : Byte) :
    Preserves { v := if s.cfg.logicVF = .cleared then [x, 0xF#4] else [x] } s (s.setLogicResult x r) := by
  unfold State.setLogicResult
  cases s.cfg.logicVF
  · exact (Preserves.setV s x r).weaken { }
  · exact Preserves.setResultFlag _ _ _ _

theorem Preserves.advanceI_exact (s : State) (x : Nibble) :
    Preserves { i := s.cfg.ldstIncI } s (s.advanceI x) := by
  unfold State.advanceI
  cases s.cfg.ldstIncI
  · exact Preserves.refl _ s
  · exact Preserves.setI s _

/-- An access that answers next: the reports were presented, and then the effect ran. -/
theorem State.access_next {s t : State} {es : List Nat} {k : State → State} (h : s.access es k = .next t) :
    ∃ os, t = k (s.emit os) := by
  rcases State.access_cases h with ⟨os, ho, _⟩ | ⟨_, _, _, _, ho⟩
  · exact ⟨os, Host.Outcome.next.inj ho⟩
  · cases ho

/-- A key test that answers next: the report was presented if there is one, and then the effect ran. -/
theorem State.withKeyIndex_next {s t : State} {v : Byte} {k : Nibble → State → State}
    (h : s.withKeyIndex v k = .next t) : ∃ os, t = k (v.extractLsb' 0 4) (s.emit os) := by
  rcases State.withKeyIndex_cases h with ⟨os, ho, _⟩ | ⟨_, _, ho⟩
  · exact ⟨os, Host.Outcome.next.inj ho⟩
  · cases ho

/-- The frame of every instruction. -/
theorem exec_preserves {i : Instr} {s t : State} (h : exec i s = .next t) : Preserves (footprint s i) s t := by
  cases i <;> simp only [footprint]
  case cls x => cases h; exact Preserves.paint _ _
  case ret x =>
    unfold exec execRet at h
    simp only at h
    split at h <;> cases h
    · exact (Preserves.popToPc _ _).weaken { }
    · exact (Preserves.raiseFault _ _ _).weaken { }
  case sys nnn => cases h; exact Preserves.emit _ _
  case jp nnn => cases h; exact Preserves.setPc _ _
  case jpV0 nnn => cases h; exact Preserves.setPc _ _
  case call nnn =>
    unfold exec execCall at h
    simp only at h
    split at h <;> cases h
    · exact ((Preserves.push _ _ _).weaken { }).trans ((Preserves.setPc _ _).weaken { })
    · exact (Preserves.raiseFault _ _ _).weaken { }
  case seImm x nn => cases h; exact Preserves.skipIf _ _
  case sneImm x nn => cases h; exact Preserves.skipIf _ _
  case seReg x y n => cases h; exact Preserves.skipIf _ _
  case sneReg x y n => cases h; exact Preserves.skipIf _ _
  case ldImm x nn => cases h; exact Preserves.setV _ _ _
  case addImm x nn => cases h; exact Preserves.setV _ _ _
  case ldReg x y => cases h; exact Preserves.setV _ _ _
  case ldVxDt x => cases h; exact Preserves.setV _ _ _
  case orReg x y => cases h; exact Preserves.setLogicResult _ _ _
  case andReg x y => cases h; exact Preserves.setLogicResult _ _ _
  case xorReg x y => cases h; exact Preserves.setLogicResult _ _ _
  case addReg x y => cases h; exact Preserves.setResultFlag _ _ _ _
  case sub x y => cases h; exact Preserves.setResultFlag _ _ _ _
  case shr x y => cases h; exact Preserves.setResultFlag _ _ _ _
  case subn x y => cases h; exact Preserves.setResultFlag _ _ _ _
  case shl x y => cases h; exact Preserves.setResultFlag _ _ _ _
  case ldI nnn => cases h; exact Preserves.setI _ _
  case addI x => cases h; exact Preserves.setI _ _
  case ldF x => cases h; exact Preserves.setI _ _
  case ldDtVx x => cases h; exact Preserves.setDt _ _
  case ldStVx x => cases h; exact Preserves.setSt _ _
  case rnd x nn =>
    cases h; exact ((Preserves.takeRnd _).weaken { }).trans ((Preserves.setV _ _ _).weaken { })
  case drw x y n =>
    obtain ⟨os, rfl⟩ := State.access_next (show execDrw _ _ _ s = _ from h)
    exact ((Preserves.emit _ _).weaken { }).trans
      (((Preserves.paint _ _).weaken { }).trans ((Preserves.setV _ _ _).weaken { }))
  case skp x =>
    obtain ⟨os, rfl⟩ := State.withKeyIndex_next (show execSkp _ s = _ from h)
    exact ((Preserves.emit _ _).weaken { }).trans ((Preserves.skipIf _ _).weaken { })
  case sknp x =>
    obtain ⟨os, rfl⟩ := State.withKeyIndex_next (show execSknp _ s = _ from h)
    exact ((Preserves.emit _ _).weaken { }).trans ((Preserves.skipIf _ _).weaken { })
  case ldVxK x =>
    unfold exec execLdVxK at h
    simp only at h
    split at h <;> cases h
    · exact (Preserves.setPc _ _).weaken { }
    · exact (Preserves.setV _ _ _).weaken { }
  case ldB x =>
    obtain ⟨os, rfl⟩ := State.access_next (show execLdB _ s = _ from h)
    refine ((Preserves.emit _ os).weaken { }).trans ((Preserves.storeFrom _ _).weaken { stored := ?_ })
    intro a ha
    simpa [footprint, State.addrAtI_eq, State.iRel, bcdDigits] using ha
  case stRegs x =>
    obtain ⟨os, rfl⟩ := State.access_next (show execStRegs _ s = _ from h)
    refine ((Preserves.emit _ os).weaken { }).trans (((Preserves.storeFrom _ _).weaken { stored := ?_ }).trans
      ((Preserves.advanceI_exact _ _).weaken { i := ?_ }))
    · intro a ha
      simpa [footprint, State.addrAtI_eq, State.iRel, State.regs] using ha
    · rw [(Preserves.storeFrom _ _).cfg]; exact id
  case ldRegs x =>
    obtain ⟨os, rfl⟩ := State.access_next (show execLdRegs _ s = _ from h)
    have hx := x.isLt
    have hl : ((s.emit os).bytesAtI (x.toNat + 1)).length = x.toNat + 1 := by simp [State.bytesAtI]
    refine ((Preserves.emit _ os).weaken { }).trans
      (((Preserves.loadFrom _ (by omega)).weaken { v := ?_ }).trans
      ((Preserves.advanceI_exact _ _).weaken { i := ?_ }))
    · intro a ha
      rwa [hl] at ha
    · rw [(Preserves.loadFrom _ (by omega)).cfg]; exact id

/-- The body of an instruction halts the machine only by a stack fault; else STATUS and FAULT stay. -/
theorem exec_status {i : Instr} {s t : State} (h : exec i s = .next t) :
    (t.status = s.status ∧ t.fault = s.fault) ∨
    (∃ nnn, i = .call nnn ∧ s.sp.val = 12 ∧ t = s.raiseFault .stackOverflow (encode (.call nnn))) ∨
    (∃ x, i = .ret x ∧ s.sp.val = 0 ∧ t = s.raiseFault .stackUnderflow (encode (.ret x))) := by
  have hp := exec_preserves h
  cases i
  case ret x =>
    unfold exec execRet at h
    simp only at h
    split at h
    · cases h; exact .inl ⟨rfl, rfl⟩
    · cases h; exact .inr (.inr ⟨x, rfl, by omega, rfl⟩)
  case call nnn =>
    unfold exec execCall at h
    simp only at h
    split at h
    · cases h; exact .inl ⟨rfl, rfl⟩
    · cases h; exact .inr (.inl ⟨nnn, rfl, by omega, rfl⟩)
  all_goals exact .inl ⟨hp.status rfl, hp.fault rfl⟩

/-- The body of an instruction keeps the canonical form of memory. -/
theorem exec_memWf {i : Instr} {s t : State} (hw : s.memWf) (h : exec i s = .next t) : t.memWf := by
  have hc := (exec_preserves h).cfg
  have keep : t.mem = s.mem → t.memWf := fun hm => by
    show Memory.wf t.cfg.font t.mem = true
    rw [hc, hm]; exact hw
  cases i
  case ldB x =>
    obtain ⟨os, rfl⟩ := State.access_next (show execLdB _ s = _ from h)
    exact State.memWf_storeFrom _ _ _ hw
  case stRegs x =>
    obtain ⟨os, rfl⟩ := State.access_next (show execStRegs _ s = _ from h)
    unfold State.advanceI
    split
    · exact State.memWf_storeFrom _ (s.emit os) _ hw
    · exact State.memWf_storeFrom _ (s.emit os) _ hw
  case ldRegs x =>
    obtain ⟨os, rfl⟩ := State.access_next (show execLdRegs _ s = _ from h)
    apply keep
    obtain ⟨vs, hv⟩ := State.loadFrom_v_only ((s.emit os).bytesAtI (x.toNat + 1)) (s.emit os) 0
    rw [hv]
    unfold State.advanceI
    split <;> rfl
  case drw x y n => obtain ⟨os, rfl⟩ := State.access_next (show execDrw _ _ _ s = _ from h); exact keep rfl
  case skp x =>
    obtain ⟨os, rfl⟩ := State.withKeyIndex_next (show execSkp _ s = _ from h)
    exact keep (by rw [State.skipIf_eq]; rfl)
  case sknp x =>
    obtain ⟨os, rfl⟩ := State.withKeyIndex_next (show execSknp _ s = _ from h)
    exact keep (by rw [State.skipIf_eq]; rfl)
  case ret x => unfold exec execRet at h; simp only at h; split at h <;> cases h <;> exact keep rfl
  case call x => unfold exec execCall at h; simp only at h; split at h <;> cases h <;> exact keep rfl
  case ldVxK x => unfold exec execLdVxK at h; simp only at h; split at h <;> cases h <;> exact keep rfl
  case orReg x y =>
    cases h; exact keep (by obtain ⟨vs, hv⟩ := State.setLogicResult_eq s x (s.readV x ||| s.readV y); rw [hv])
  case andReg x y =>
    cases h; exact keep (by obtain ⟨vs, hv⟩ := State.setLogicResult_eq s x (s.readV x &&& s.readV y); rw [hv])
  case xorReg x y =>
    cases h; exact keep (by obtain ⟨vs, hv⟩ := State.setLogicResult_eq s x (s.readV x ^^^ s.readV y); rw [hv])
  case seImm x nn => cases h; exact keep (by rw [State.skipIf_eq]; rfl)
  case sneImm x nn => cases h; exact keep (by rw [State.skipIf_eq]; rfl)
  case seReg x y n => cases h; exact keep (by rw [State.skipIf_eq]; rfl)
  case sneReg x y n => cases h; exact keep (by rw [State.skipIf_eq]; rfl)
  all_goals (cases h; exact keep rfl)

end Sys2Proof.Machine
end

