-- ==== Sys2Proof/Laws/Host.lean ====
section
/-! SUPPORT. What the host's events and INIT do: runs of bytes written at INIT, the timers' decrement, the keys. -/

namespace Sys2Proof.Machine

/-! ### INIT -/

/-- A run of bytes writes memory alone. -/
theorem State.writeBytes_mem_only : ∀ (bs : List Byte) (s : State) (a : Nat),
    ∃ m, s.writeBytes a bs = { s with mem := m }
  | [], s, _ => ⟨s.mem, rfl⟩
  | b :: bs, s, a => by
    obtain ⟨m, hm⟩ := State.writeBytes_mem_only bs (s.writeByte (BitVec.ofNat 12 a) b) (a + 1)
    exact ⟨m, by rw [State.writeBytes, hm]; rfl⟩

/-- A run of bytes keeps the canonical form. -/
theorem State.memWf_writeBytes : ∀ (bs : List Byte) (s : State) (a : Nat), s.memWf → (s.writeBytes a bs).memWf
  | [], _, _, h => h
  | _ :: bs, _, _, h => State.memWf_writeBytes bs _ _ (State.memWf_writeByte h _ _)

/-- A run of bytes that ends inside memory: the bytes stand from `a` up, the rest stays. -/
theorem State.readByte_writeBytes (bs : List Byte) (s : State) (a : Nat) (q : Addr) (h : s.memWf)
    (hl : a + bs.length ≤ 4096) :
    (s.writeBytes a bs).readByte q =
      if a ≤ q.toNat then bs.getD (q.toNat - a) (s.readByte q) else s.readByte q := by
  induction bs generalizing s a with
  | nil => simp [State.writeBytes]
  | cons b bs ih =>
    rw [List.length_cons] at hl
    have hk : (BitVec.ofNat 12 a).toNat = a := by rw [BitVec.toNat_ofNat]; exact Nat.mod_eq_of_lt (by omega)
    rw [State.writeBytes, ih _ (a + 1) (State.memWf_writeByte h _ _) (by omega), State.readByte_writeByte h]
    by_cases hq : q.toNat = a
    · have h3 : q = BitVec.ofNat 12 a := BitVec.eq_of_toNat_eq (by omega)
      rw [if_neg (by omega), if_pos h3, if_pos (by omega), hq, Nat.sub_self, List.getD_cons_zero]
    · have h3 : q ≠ BitVec.ofNat 12 a := fun hh => hq (by rw [hh, hk])
      rw [if_neg h3]
      by_cases h1 : a + 1 ≤ q.toNat
      · rw [if_pos h1, if_pos (by omega), show q.toNat - a = (q.toNat - (a + 1)) + 1 by omega,
          List.getD_cons_succ]
      · rw [if_neg h1, if_neg (by omega)]

/-- Placing an instruction keeps the canonical form. -/
theorem State.memWf_placeAtPc {s : State} (h : s.memWf) : ∀ bs, (s.placeAtPc bs).memWf
  | [] => h
  | [_] => h
  | _ :: _ :: _ => State.memWf_writeByte (State.memWf_writeByte h _ _) _ _

/-- Nothing is listed after INIT of an empty ROM. -/
theorem State.memWf_resetWith (cfg : Config) (draws : Nat) : (State.resetWith cfg draws).memWf := rfl

/-- An INIT that succeeds: the reset state with the ROM's bytes. -/
theorem initialise_ok {cfg : Config} {draws : Nat} {rom : RomImage} {s : State}
    (h : initialise cfg draws rom = .ok s) :
    ∃ bs, rom = .bytes bs ∧ bs.length ≤ 3584 ∧ s = (State.resetWith cfg draws).writeBytes 0x200 bs := by
  cases rom with
  | missing => cases h
  | bytes bs =>
    simp only [initialise] at h
    split at h
    · cases h
    · next hl => exact ⟨bs, rfl, Nat.not_lt.1 hl, (Except.ok.inj h).symm⟩

/-! ### The timers and the keys -/

theorem toNat_decrement (b : Byte) : (decrement b).toNat = b.toNat - 1 := by
  unfold decrement
  split
  · next h => rw [h]; rfl
  · next h =>
    have : b.toNat ≠ 0 := fun hh => h (BitVec.eq_of_toNat_eq hh)
    have := b.isLt
    have h1 : (1 : Byte).toNat = 1 := rfl
    rw [BitVec.toNat_sub, h1]
    omega

/-- No key is down exactly when KEYS is zero. -/
theorem State.lowestKey_eq_none (s : State) : s.lowestKey = none ↔ s.keys = 0 := by
  constructor
  · intro h
    simp only [State.lowestKey, List.find?_range_eq_none] at h
    apply BitVec.eq_of_getLsbD_eq
    intro j hj
    simpa using h j hj
  · intro h
    simp [State.lowestKey, h]

/-- The lowest key that is down. -/
theorem State.lowestKey_eq_some {s : State} {k : Nat} :
    s.lowestKey = some k ↔ k < 16 ∧ s.keys.getLsbD k = true ∧ ∀ j < k, s.keys.getLsbD j = false := by
  unfold State.lowestKey
  rw [List.find?_range_eq_some]
  simp only [List.mem_range, Bool.not_eq_true']
  tauto

end Sys2Proof.Machine
end

