-- ==== Sys2Proof/Laws/OpcodeMap.lean ====
section
/-! SUPPORT. A row of the opcode map (30_encoding.md R87) is selected by the fields its mask keeps. -/

namespace Sys2Proof.Machine

/-- Mask F000: the family. -/
theorem MapRow.selects_F000 (c : Nibble) (i : Word → Instr) (w : Word) :
    MapRow.selects ⟨formRegReg c 0 0 0, 0xF000, i⟩ w = decide (fieldF w = c) := by
  rw [Bool.eq_iff_iff, decide_eq_true_iff, ← and_F000_eq_iff]
  exact beq_iff_eq

/-- Mask F00F: the family and the low four bits. -/
theorem MapRow.selects_F00F (c m : Nibble) (i : Word → Instr) (w : Word) :
    MapRow.selects ⟨formRegReg c 0 0 m, 0xF00F, i⟩ w = decide (fieldF w = c ∧ fieldN w = m) := by
  rw [Bool.eq_iff_iff, decide_eq_true_iff, ← and_F00F_eq_iff]
  exact beq_iff_eq

/-- Mask F0FF: the family and the low byte. -/
theorem MapRow.selects_F0FF (c : Nibble) (b : Byte) (i : Word → Instr) (w : Word) :
    MapRow.selects ⟨formRegImm c 0 b, 0xF0FF, i⟩ w = decide (fieldF w = c ∧ fieldNN w = b) := by
  rw [Bool.eq_iff_iff, decide_eq_true_iff, ← and_F0FF_eq_iff]
  exact beq_iff_eq

end Sys2Proof.Machine
end

