-- ==== Sys2Proof/Laws/Outputs.lean ====
section
/-! SUPPORT. What stands on the outputs decides nothing in the body of an instruction (60_exceptions.md R239). -/

namespace Sys2Proof.Machine

/-- Two outcomes that differ in the outputs alone, with the same new events. -/
def Alike (s : State) (es : List Output) (we : Bool) (o o' : Host.Outcome State Fault Refusal) : Prop :=
  (∃ t new, o = .next t ∧ o' = .next (t.withOutputs (es ++ new) we) ∧ t.events = s.events ++ new) ∨
  (∃ f, o = .fault f ∧ o' = .fault f) ∨ ∃ r, o = .refused r ∧ o' = .refused r

/-- A body that presents nothing. -/
theorem Alike.quiet {s t : State} {es we} (h : t.events = s.events) : Alike s es we (.next t) (.next (t.withOutputs es we)) :=
  .inl ⟨t, [], rfl, by simp, by simp [h]⟩

/-- The body of an instruction does not look at the outputs. -/
theorem exec_withOutputs (i : Instr) (s : State) (es we) : Alike s es we (exec i s) (exec i (s.withOutputs es we)) := by
  have acc : ∀ (l : List Nat) (k : State → State), (∀ u es, k (u.withOutputs es we) = (k u).withOutputs es we) → (∀ u, (k u).events = u.events) →
     Alike s es we (s.access l k) ((s.withOutputs es we).access l k) := by
    intro l k h1 h2
    unfold State.access
    rw [show (s.withOutputs es we).cfg = s.cfg from rfl]
    cases s.cfg.oob
    · exact .inl ⟨_, oobReports l, rfl, congrArg _ (h1 (s.emit (oobReports l)) (es ++ oobReports l)), h2 _⟩
    · cases l.find? (fun e => decide (4095 < e))
      · exact .inl ⟨_, [], rfl, by simp [h1], by simp [h2]⟩
      · exact .inr (.inl ⟨_, rfl, rfl⟩)
  have key : ∀ (v : Byte) (k : Nibble → State → State), (∀ n u es, k n (u.withOutputs es we) = (k n u).withOutputs es we) → (∀ n u, (k n u).events = u.events) →
     Alike s es we (s.withKeyIndex v k) ((s.withOutputs es we).withKeyIndex v k) := by
    intro v k h1 h2
    unfold State.withKeyIndex
    split
    · exact .inl ⟨_, [], rfl, by simp [h1], by simp [h2]⟩
    · rw [show (s.withOutputs es we).cfg = s.cfg from rfl]
      cases s.cfg.keyOob
      · exact .inl ⟨_, [.diag (.keyOob v)], rfl, congrArg _ (h1 _ (s.report (.keyOob v)) (es ++ [.diag (.keyOob v)])), h2 _ _⟩
      · exact .inr (.inl ⟨_, rfl, rfl⟩)
  have sk : ∀ (b : Bool) (u : State) es, (u.withOutputs es we).skipIf b = (u.skipIf b).withOutputs es we := by intro b u es; cases b <;> rfl
  have sk2 : ∀ (b : Bool) (u : State), (u.skipIf b).events = u.events := by intro b u; cases b <;> rfl
  have lg : ∀ x r, Alike s es we (.next (s.setLogicResult x r)) (.next ((s.withOutputs es we).setLogicResult x r)) := by
    intro x r
    unfold State.setLogicResult
    rw [show (s.withOutputs es we).cfg = s.cfg from rfl]
    cases s.cfg.logicVF <;> exact Alike.quiet rfl
  have adv : ∀ x (u : State) es, (u.withOutputs es we).advanceI x = (u.advanceI x).withOutputs es we := by
    intro x u es; unfold State.advanceI
    show (if u.cfg.ldstIncI then _ else _) = _
    split <;> rfl
  have adv2 : ∀ x (u : State), (u.advanceI x).events = u.events := by intro x u; unfold State.advanceI; split <;> rfl
  have stf : ∀ bs e (u : State) es, (u.withOutputs es we).storeFrom e bs = (u.storeFrom e bs).withOutputs es we := by
    intro bs; induction bs with
    | nil => intros; rfl
    | cons b bs ih => intro e u es; exact ih (e+1) (u.writeByte (ea e) b) es
  have stf2 : ∀ bs e (u : State), (u.storeFrom e bs).events = u.events := by
    intro bs e u; obtain ⟨m, h⟩ := State.storeFrom_mem_only bs u e; rw [h]
  have ldf : ∀ bs e (u : State) es, (u.withOutputs es we).loadFrom e bs = (u.loadFrom e bs).withOutputs es we := by
    intro bs; induction bs with
    | nil => intros; rfl
    | cons b bs ih => intro e u es; exact ih (e+1) (u.setV _ b) es
  have ldf2 : ∀ bs e (u : State), (u.loadFrom e bs).events = u.events := by
    intro bs e u; obtain ⟨m, h⟩ := State.loadFrom_v_only bs u e; rw [h]
  cases i
  case ret x =>
    unfold exec execRet; simp only
    by_cases h : 0 < s.sp.val
    · rw [dif_pos h, dif_pos (show 0 < (s.withOutputs es we).sp.val from h)]; exact Alike.quiet rfl
    · rw [dif_neg h, dif_neg (show ¬ 0 < (s.withOutputs es we).sp.val from h)]; exact .inl ⟨_, [_], rfl, rfl, rfl⟩
  case call x =>
    unfold exec execCall; simp only
    by_cases h : s.sp.val < 12
    · rw [dif_pos h, dif_pos (show (s.withOutputs es we).sp.val < 12 from h)]; exact Alike.quiet rfl
    · rw [dif_neg h, dif_neg (show ¬ (s.withOutputs es we).sp.val < 12 from h)]; exact .inl ⟨_, [_], rfl, rfl, rfl⟩
  case sys => exact .inl ⟨_, [_], rfl, rfl, rfl⟩
  case orReg => exact lg _ _
  case andReg => exact lg _ _
  case xorReg => exact lg _ _
  case seImm x nn => have := Alike.quiet (es := es) (we := we) (sk2 (s.readV x == nn) s); rw [← sk] at this; exact this
  case sneImm x nn => have := Alike.quiet (es := es) (we := we) (sk2 (s.readV x != nn) s); rw [← sk] at this; exact this
  case seReg x y n => have := Alike.quiet (es := es) (we := we) (sk2 (s.readV x == s.readV y) s); rw [← sk] at this; exact this
  case sneReg x y n => have := Alike.quiet (es := es) (we := we) (sk2 (s.readV x != s.readV y) s); rw [← sk] at this; exact this
  case skp x => exact key _ _ (fun n u es => sk _ u es) (fun n u => sk2 _ u)
  case sknp x => exact key _ _ (fun n u es => sk _ u es) (fun n u => sk2 _ u)
  case ldVxK x =>
    unfold exec execLdVxK; simp only
    rw [show (s.withOutputs es we).lowestKey = s.lowestKey from rfl]
    cases s.lowestKey <;> exact Alike.quiet rfl
  case drw x y n => exact acc _ (fun t => let d := t.drawSprite x y n; (t.paint d.1).setV 0xF#4 (flagByte d.2)) (fun _ _ => rfl) (fun _ => rfl)
  case ldB x => exact acc _ (fun t => t.storeFrom t.i.toNat (bcdDigits (t.readV x))) (fun u es => stf _ _ u es) (fun u => stf2 _ _ u)
  case stRegs x => exact acc _ (fun t => (t.storeFrom t.i.toNat (t.regs (x.toNat + 1))).advanceI x) (fun u es => by rw [stf, adv]; rfl) (fun u => by rw [adv2, stf2])
  case ldRegs x => exact acc _ (fun t => (t.loadFrom 0 (t.bytesAtI (x.toNat + 1))).advanceI x) (fun u es => by rw [ldf, adv]; rfl) (fun u => by rw [adv2, ldf2])
  all_goals exact Alike.quiet rfl

end Sys2Proof.Machine
end

