-- ==== Sys2Proof/Laws/PerInstr.lean ====
section
/-! SUPPORT. Per-instruction laws. RowMatch: the word of an instruction, under the mask of its row of
30_encoding.md R87, is that row's match. -/

namespace Sys2Proof.Laws

/-- The column "mask" of R87. -/
def rowMask : Instr → Word
  | .cls _ | .ret _ | .skp _ | .sknp _ | .ldVxDt _ | .ldVxK _ | .ldDtVx _ | .ldStVx _ | .addI _ | .ldF _
  | .ldB _ | .stRegs _ | .ldRegs _ => 0xF0FF
  | .ldReg _ _ | .orReg _ _ | .andReg _ _ | .xorReg _ _ | .addReg _ _ | .sub _ _ | .shr _ _ | .subn _ _
  | .shl _ _ => 0xF00F
  | .sys _ | .jp _ | .call _ | .seImm _ _ | .sneImm _ _ | .seReg _ _ _ | .ldImm _ _ | .addImm _ _
  | .sneReg _ _ _ | .ldI _ | .jpV0 _ | .rnd _ _ | .drw _ _ _ => 0xF000

/-- The column "match" of R87. -/
def rowPattern : Instr → Word
  | .cls _ => 0x00E0
  | .ret _ => 0x00EE
  | .sys _ => 0x0000
  | .jp _ => 0x1000
  | .call _ => 0x2000
  | .seImm _ _ => 0x3000
  | .sneImm _ _ => 0x4000
  | .seReg _ _ _ => 0x5000
  | .ldImm _ _ => 0x6000
  | .addImm _ _ => 0x7000
  | .ldReg _ _ => 0x8000
  | .orReg _ _ => 0x8001
  | .andReg _ _ => 0x8002
  | .xorReg _ _ => 0x8003
  | .addReg _ _ => 0x8004
  | .sub _ _ => 0x8005
  | .shr _ _ => 0x8006
  | .subn _ _ => 0x8007
  | .shl _ _ => 0x800E
  | .sneReg _ _ _ => 0x9000
  | .ldI _ => 0xA000
  | .jpV0 _ => 0xB000
  | .rnd _ _ => 0xC000
  | .drw _ _ _ => 0xD000
  | .skp _ => 0xE09E
  | .sknp _ => 0xE0A1
  | .ldVxDt _ => 0xF007
  | .ldVxK _ => 0xF00A
  | .ldDtVx _ => 0xF015
  | .ldStVx _ => 0xF018
  | .addI _ => 0xF01E
  | .ldF _ => 0xF029
  | .ldB _ => 0xF033
  | .stRegs _ => 0xF055
  | .ldRegs _ => 0xF065

namespace RowMatch

/-- "A word w selects row r when (w & mask_r) = match_r" (R87): the word of `i` selects the row of `i`. -/
def Statement (i : Instr) : Prop := encode i &&& rowMask i = rowPattern i

theorem cls (x : Nibble) : Statement (.cls x) := (formRegImm_and_F0FF _ _ _).trans rfl
theorem ret (x : Nibble) : Statement (.ret x) := (formRegImm_and_F0FF _ _ _).trans rfl
theorem sys (nnn : Addr) : Statement (.sys nnn) := (formAddr_and_F000 _ _).trans rfl
theorem jp (nnn : Addr) : Statement (.jp nnn) := (formAddr_and_F000 _ _).trans rfl
theorem call (nnn : Addr) : Statement (.call nnn) := (formAddr_and_F000 _ _).trans rfl
theorem seImm (x : Nibble) (nn : Byte) : Statement (.seImm x nn) := (formRegImm_and_F000 _ _ _).trans rfl
theorem sneImm (x : Nibble) (nn : Byte) : Statement (.sneImm x nn) := (formRegImm_and_F000 _ _ _).trans rfl
theorem seReg (x : Nibble) (y : Nibble) (n : Nibble) : Statement (.seReg x y n) := (formRegReg_and_F000 _ _ _ _).trans rfl
theorem ldImm (x : Nibble) (nn : Byte) : Statement (.ldImm x nn) := (formRegImm_and_F000 _ _ _).trans rfl
theorem addImm (x : Nibble) (nn : Byte) : Statement (.addImm x nn) := (formRegImm_and_F000 _ _ _).trans rfl
theorem ldReg (x : Nibble) (y : Nibble) : Statement (.ldReg x y) := (formRegReg_and_F00F _ _ _ _).trans rfl
theorem orReg (x : Nibble) (y : Nibble) : Statement (.orReg x y) := (formRegReg_and_F00F _ _ _ _).trans rfl
theorem andReg (x : Nibble) (y : Nibble) : Statement (.andReg x y) := (formRegReg_and_F00F _ _ _ _).trans rfl
theorem xorReg (x : Nibble) (y : Nibble) : Statement (.xorReg x y) := (formRegReg_and_F00F _ _ _ _).trans rfl
theorem addReg (x : Nibble) (y : Nibble) : Statement (.addReg x y) := (formRegReg_and_F00F _ _ _ _).trans rfl
theorem sub (x : Nibble) (y : Nibble) : Statement (.sub x y) := (formRegReg_and_F00F _ _ _ _).trans rfl
theorem shr (x : Nibble) (y : Nibble) : Statement (.shr x y) := (formRegReg_and_F00F _ _ _ _).trans rfl
theorem subn (x : Nibble) (y : Nibble) : Statement (.subn x y) := (formRegReg_and_F00F _ _ _ _).trans rfl
theorem shl (x : Nibble) (y : Nibble) : Statement (.shl x y) := (formRegReg_and_F00F _ _ _ _).trans rfl
theorem sneReg (x : Nibble) (y : Nibble) (n : Nibble) : Statement (.sneReg x y n) := (formRegReg_and_F000 _ _ _ _).trans rfl
theorem ldI (nnn : Addr) : Statement (.ldI nnn) := (formAddr_and_F000 _ _).trans rfl
theorem jpV0 (nnn : Addr) : Statement (.jpV0 nnn) := (formAddr_and_F000 _ _).trans rfl
theorem rnd (x : Nibble) (nn : Byte) : Statement (.rnd x nn) := (formRegImm_and_F000 _ _ _).trans rfl
theorem drw (x : Nibble) (y : Nibble) (n : Nibble) : Statement (.drw x y n) := (formRegReg_and_F000 _ _ _ _).trans rfl
theorem skp (x : Nibble) : Statement (.skp x) := (formRegImm_and_F0FF _ _ _).trans rfl
theorem sknp (x : Nibble) : Statement (.sknp x) := (formRegImm_and_F0FF _ _ _).trans rfl
theorem ldVxDt (x : Nibble) : Statement (.ldVxDt x) := (formRegImm_and_F0FF _ _ _).trans rfl
theorem ldVxK (x : Nibble) : Statement (.ldVxK x) := (formRegImm_and_F0FF _ _ _).trans rfl
theorem ldDtVx (x : Nibble) : Statement (.ldDtVx x) := (formRegImm_and_F0FF _ _ _).trans rfl
theorem ldStVx (x : Nibble) : Statement (.ldStVx x) := (formRegImm_and_F0FF _ _ _).trans rfl
theorem addI (x : Nibble) : Statement (.addI x) := (formRegImm_and_F0FF _ _ _).trans rfl
theorem ldF (x : Nibble) : Statement (.ldF x) := (formRegImm_and_F0FF _ _ _).trans rfl
theorem ldB (x : Nibble) : Statement (.ldB x) := (formRegImm_and_F0FF _ _ _).trans rfl
theorem stRegs (x : Nibble) : Statement (.stRegs x) := (formRegImm_and_F0FF _ _ _).trans rfl
theorem ldRegs (x : Nibble) : Statement (.ldRegs x) := (formRegImm_and_F0FF _ _ _).trans rfl

end RowMatch

end Sys2Proof.Laws
end

