-- ==== Sys2Proof/Tests/Slice0.lean ====
section
/-! SUPPORT. The model's own tests. Every expected result is the spec's: a vector of 95_test_vectors.md (its number
stands in the name or the comment), a row of 30_encoding.md R87, or a rule worked by hand. After them, for each
obligation that has hypotheses, a state and operands that meet them all. -/

namespace Sys2Proof.Tests

open Sys2Proof Sys2Proof.Machine

/-! ### Helpers -/

/-- The reset state with one instruction word where the next STEP fetches. -/
def ready (op : Nat) : State := State.reset.withFetchWord 16 op

/-- The same, under other parameters. -/
def readyWith (c : Config) (op : Nat) : State := (State.resetWith c 0).withFetchWord 16 op

/-- The same, fetched at `pc`. -/
def readyAt (pc : Word) (op : Nat) : State := (State.reset.setPc pc).withFetchWord 16 op

/-- V[x] <- b. -/
def withV (s : State) (x : Nat) (b : Byte) : State := s.setV (BitVec.ofNat 4 x) b

/-- What one STEP leaves, seen through `f`; none if the step stops. -/
def after {α : Type} (s : State) (f : State → α) : Option α :=
  match step s with
  | .next t => some (f t)
  | .fault _ => none
  | .refused _ => none

/-- V[x], as a number. -/
def vv (t : State) (x : Nat) : Nat := (t.readV (BitVec.ofNat 4 x)).toNat

/-- MEM[a], as a number. -/
def mm (t : State) (a : Nat) : Nat := (t.readByte (BitVec.ofNat 12 a)).toNat

/-- PC, as a number. -/
def pp (t : State) : Nat := t.pc.toNat

/-! ### Well-formedness: each check refuses an ill-formed term -/

theorem test_wf_sys_refuses_cls_word : (Instr.sys 0x0E0).wf false = false := by decide
theorem test_wf_sys_refuses_ret_word : (Instr.sys 0x3EE).wf false = false := by decide
theorem test_wf_sys_accepts : (Instr.sys 0x123).wf false = true := by decide
theorem test_wf_seReg_strict_refuses : (Instr.seReg 1 2 1).wf true = false := by decide
theorem test_wf_sneReg_strict_refuses : (Instr.sneReg 1 2 0xF).wf true = false := by decide
theorem test_wf_seReg_default_accepts : (Instr.seReg 1 2 1).wf false = true := by decide

/-! ### Decoding: a word of every row of R87, written out from its pattern and fields -/

theorem test_decode_family0 :
    decodeTableWord 16 0x0AE0 = some (.cls 0xA) ∧ decodeTableWord 16 0x05EE = some (.ret 5) ∧
    decodeTableWord 16 0x0123 = some (.sys 0x123) := by decide
theorem test_decode_jumps :
    decodeTableWord 16 0x1ABC = some (.jp 0xABC) ∧ decodeTableWord 16 0x2DEF = some (.call 0xDEF) ∧
    decodeTableWord 16 0xB123 = some (.jpV0 0x123) := by decide
theorem test_decode_skips :
    decodeTableWord 16 0x3A42 = some (.seImm 0xA 0x42) ∧ decodeTableWord 16 0x4B24 = some (.sneImm 0xB 0x24) ∧
    decodeTableWord 16 0x5AB3 = some (.seReg 0xA 0xB 3) ∧
    decodeTableWord 16 0x9CD4 = some (.sneReg 0xC 0xD 4) := by decide
theorem test_decode_loads :
    decodeTableWord 16 0x6C15 = some (.ldImm 0xC 0x15) ∧ decodeTableWord 16 0x7D51 = some (.addImm 0xD 0x51) ∧
    decodeTableWord 16 0xA2F0 = some (.ldI 0x2F0) ∧ decodeTableWord 16 0xC3A7 = some (.rnd 3 0xA7) ∧
    decodeTableWord 16 0xD125 = some (.drw 1 2 5) := by decide
theorem test_decode_alu :
    decodeTableWord 16 0x8AB0 = some (.ldReg 0xA 0xB) ∧ decodeTableWord 16 0x8AB1 = some (.orReg 0xA 0xB) ∧
    decodeTableWord 16 0x8AB2 = some (.andReg 0xA 0xB) ∧ decodeTableWord 16 0x8AB3 = some (.xorReg 0xA 0xB) ∧
    decodeTableWord 16 0x8AB4 = some (.addReg 0xA 0xB) ∧ decodeTableWord 16 0x8AB5 = some (.sub 0xA 0xB) ∧
    decodeTableWord 16 0x8AB6 = some (.shr 0xA 0xB) ∧ decodeTableWord 16 0x8AB7 = some (.subn 0xA 0xB) ∧
    decodeTableWord 16 0x8ABE = some (.shl 0xA 0xB) := by decide
theorem test_decode_keys :
    decodeTableWord 16 0xE59E = some (.skp 5) ∧ decodeTableWord 16 0xE6A1 = some (.sknp 6) ∧
    decodeTableWord 16 0xF80A = some (.ldVxK 8) := by decide
theorem test_decode_familyF :
    decodeTableWord 16 0xF707 = some (.ldVxDt 7) ∧ decodeTableWord 16 0xF915 = some (.ldDtVx 9) ∧
    decodeTableWord 16 0xFA18 = some (.ldStVx 0xA) ∧ decodeTableWord 16 0xFB1E = some (.addI 0xB) ∧
    decodeTableWord 16 0xFC29 = some (.ldF 0xC) ∧ decodeTableWord 16 0xFD33 = some (.ldB 0xD) ∧
    decodeTableWord 16 0xFE55 = some (.stRegs 0xE) ∧ decodeTableWord 16 0xFF65 = some (.ldRegs 0xF) := by decide
/-- R86, R88. -/
theorem test_decode_unknown :
    decodeTableWord 16 0x8018 = none ∧ decodeTableWord 16 0xE09F = none ∧ decodeTableWord 16 0xF0FF = none ∧
    decodeWord true 0x5121 = .error (.unknownOpcode 0x5121) ∧ decodeBytes false [0x60] = .error .tooShort := by
  decide

/-! ### The cycle (vectors C1 to C15, T1, T2) -/

theorem test_reset_T1 :
    pp State.reset = 0x200 ∧ State.reset.sp = 0 ∧ vv State.reset 15 = 0 ∧ State.reset.i = 0 ∧
    State.reset.keys = 0 ∧ State.reset.dirty = false ∧ mm State.reset 0x4F = 0x80 ∧ mm State.reset 0x50 = 0 := by
  decide
theorem test_step_T2 :
    after State.reset (fun t => (pp t, t.events)) =
      some (0x202, [.diag (.unknownOpcode 0x200 0), .trace 0x200 0]) := by decide
theorem test_fetch_big_endian_C1 :
    after (ready 0x1234) (fun t => (pp t, t.fbWe, t.events)) = some (0x234, false, [.trace 0x200 0x1234]) := by
  decide
theorem test_fetch_odd_C2 :
    after (readyAt 0x201 0x60AB) (fun t => (pp t, vv t 0, t.events)) =
      some (0x203, 0xAB, [.trace 0x201 0x60AB]) := by decide
theorem test_fetch_top_C3 :
    after (readyAt 0xFFE 0x6001) (fun t => (pp t, t.events)) = some (0x1000, [.trace 0xFFE 0x6001]) := by decide
theorem test_fetch_across_top_C4 :
    after ((State.reset.setPc 0xFFF).writeByte 0xFFF 0x60) (fun t => (pp t, vv t 0, t.events)) =
      some (0x1001, 0xF0, [.diag (.pcOob 0xFFF), .trace 0xFFF 0x60F0]) := by decide
theorem test_fetch_wrapped_C5 :
    after (State.reset.setPc 0x1000) (fun t => (pp t, t.events)) =
      some (0x1002, [.diag (.pcOob 0x1000), .diag (.unknownOpcode 0x1000 0xF090), .trace 0x1000 0xF090]) := by
  decide
theorem test_pc_wraps_C6 :
    after (State.reset.setPc 0xFFFF) (fun t => (pp t, t.events.take 2)) =
      some (1, [.diag (.pcOob 0xFFFF), .diag (.unknownOpcode 0xFFFF 0x00F0)]) := by decide
theorem test_unknown_word_C7 :
    after (ready 0x8018) (fun t => (pp t, t.v == State.reset.v, t.events)) =
      some (0x202, true, [.diag (.unknownOpcode 0x200 0x8018), .trace 0x200 0x8018]) := by decide
theorem test_strict_C10_C11 :
    after (ready 0x5121) pp = some 0x204 ∧
    after (readyWith { standardConfig with strict59 := true } 0x5121) pp = some 0x202 := by decide
theorem test_paused_step_C14 :
    step ((ready 0x6005).setStatus .paused) = .next ((ready 0x6005).setStatus .paused) := by rfl
theorem test_halted_step_C15 :
    step ((ready 0x6005).setStatus .halted) = .next ((ready 0x6005).setStatus .halted) := by rfl

/-! ### Control flow (vectors F1 to F22) -/

theorem test_call_F1 :
    after (ready 0x2300) (fun t => (t.stack[0], t.sp, pp t)) = some (0x202, 1, 0x300) := by decide
theorem test_call_overflow_F4 :
    after { ready 0x2300 with sp := 12 } (fun t => (pp t, t.fault, t.status, t.sp, t.events)) =
      some (0x200, { cause := .stackOverflow, pc := 0x200, op := 0x2300 }, .halted, 12,
        [.diag (.stackFault .stackOverflow 0x200 0x2300)]) := by decide
theorem test_ret_C13 :
    after { ready 0x03EE with sp := 1, stack := State.reset.stack.set 0 0x300 }
      (fun t => (t.sp, pp t, t.stack[0])) = some (0, 0x300, 0x300) := by decide
theorem test_ret_underflow_F3 :
    after (ready 0x00EE) (fun t => (pp t, t.fault, t.status, t.events)) =
      some (0x200, { cause := .stackUnderflow, pc := 0x200, op := 0x00EE }, .halted,
        [.diag (.stackFault .stackUnderflow 0x200 0x00EE)]) := by decide
theorem test_sys_F22 :
    after (ready 0x0123) (fun t => (pp t, t.events.head?)) =
      some (0x202, some (.diag (.unknownOpcode 0x200 0x0123))) := by decide
theorem test_jp_F7 : after (ready 0x1FFF) pp = some 0xFFF := by decide
theorem test_jp_self_F8 : after (ready 0x1200) pp = some 0x200 := by decide
theorem test_se_imm_F9_F10 :
    after (withV (ready 0x3342) 3 0x42) pp = some 0x204 ∧
    after (withV (ready 0x3342) 3 0x41) pp = some 0x202 := by decide
theorem test_sne_imm_F11_F12 :
    after (withV (ready 0x4342) 3 0x41) pp = some 0x204 ∧
    after (withV (ready 0x4342) 3 0x42) pp = some 0x202 := by decide
theorem test_se_reg_F13 :
    after (withV (withV (ready 0x5120) 1 7) 2 7) pp = some 0x204 ∧
    after (withV (withV (ready 0x5120) 1 7) 2 8) pp = some 0x202 := by decide
theorem test_sne_reg_F15_F16 :
    after (withV (withV (ready 0x9120) 1 7) 2 8) pp = some 0x204 ∧
    after (withV (ready 0x9110) 1 7) pp = some 0x202 := by decide
theorem test_skip_past_top_F18 : after (readyAt 0xFFE 0x3000) pp = some 0x1002 := by decide
theorem test_jpV0_F20 : after (withV (ready 0xBFFF) 0 0xFF) pp = some 0x10FE := by decide
theorem test_jpVx_F21 :
    after (withV (withV (readyWith { standardConfig with jumpReg := .vx } 0xB300) 0 1) 3 0x20) pp =
      some 0x320 := by decide

/-! ### ALU (vectors A1 to A39) -/

theorem test_ld_imm_A1 : after (ready 0x6005) (vv · 0) = some 5 := by decide
theorem test_add_imm_A3 : after (withV (ready 0x7101) 1 0xFF) (fun t => (vv t 1, vv t 15)) = some (0, 0) := by
  decide
theorem test_add_imm_A4 : after (withV (ready 0x7F01) 15 0x10) (vv · 15) = some 0x11 := by decide
theorem test_ld_reg_A5 : after (withV (ready 0x8120) 2 0x33) (fun t => (vv t 1, vv t 2)) = some (0x33, 0x33) := by
  decide
theorem test_or_A6 :
    after (withV (withV (withV (ready 0x8121) 1 0xF0) 2 0x0F) 15 0x55) (fun t => (vv t 1, vv t 15)) =
      some (0xFF, 0x55) := by decide
theorem test_or_cleared_A7 :
    after (withV (withV (withV (readyWith { standardConfig with logicVF := .cleared } 0x8121) 1 0xF0) 2 0x0F) 15
      0x55) (fun t => (vv t 1, vv t 15)) = some (0xFF, 0) := by decide
theorem test_and_A8 : after (withV (withV (ready 0x8122) 1 0xF0) 2 0x3C) (vv · 1) = some 0x30 := by decide
theorem test_xor_A9 : after (withV (withV (ready 0x8123) 1 0xF0) 2 0x3C) (vv · 1) = some 0xCC := by decide
theorem test_add_reg_A11 :
    after (withV (withV (ready 0x8124) 1 0xC8) 2 0x64) (fun t => (vv t 1, vv t 15)) = some (0x2C, 1) := by decide
theorem test_add_reg_A16_A18 :
    after (withV (withV (ready 0x81F4) 1 1) 15 0xFF) (fun t => (vv t 1, vv t 15)) = some (0, 1) ∧
    after (withV (withV (ready 0x8F14) 15 0xF0) 1 0x20) (vv · 15) = some 1 := by decide
theorem test_sub_A20 :
    after (withV (withV (ready 0x8125) 1 3) 2 0xA) (fun t => (vv t 1, vv t 15)) = some (0xF9, 0) := by decide
theorem test_sub_equal_A21_A22 :
    after (withV (withV (ready 0x8125) 1 5) 2 5) (fun t => (vv t 1, vv t 15)) = some (0, 1) ∧
    after (withV (withV (readyWith { standardConfig with subEqFlag := false } 0x8125) 1 5) 2 5)
      (fun t => (vv t 1, vv t 15)) = some (0, 0) := by decide
theorem test_shr_A25_A29 :
    after (withV (ready 0x8106) 1 5) (fun t => (vv t 1, vv t 15)) = some (2, 1) ∧
    after (withV (ready 0x8F06) 15 3) (vv · 15) = some 1 := by decide
theorem test_shr_vy_A28 :
    after (withV (withV (readyWith { standardConfig with shiftSrc := .vy } 0x8126) 1 4) 2 5)
      (fun t => (vv t 1, vv t 15)) = some (2, 1) := by decide
theorem test_subn_A30_A31 :
    after (withV (withV (ready 0x8127) 1 3) 2 0xA) (fun t => (vv t 1, vv t 15)) = some (7, 1) ∧
    after (withV (withV (ready 0x8127) 1 0xA) 2 3) (fun t => (vv t 1, vv t 15)) = some (0xF9, 0) := by decide
theorem test_shl_A33_A34 :
    after (withV (ready 0x810E) 1 0x81) (fun t => (vv t 1, vv t 15)) = some (2, 1) ∧
    after (withV (ready 0x810E) 1 0x40) (fun t => (vv t 1, vv t 15)) = some (0x80, 0) := by decide
/-- A37: the byte on the random input is the hypothesis. -/
theorem test_rnd_A37 (h : Config.rndByte 0 = 0xA7) :
    ∃ t, exec (.rnd 3 0x0F) State.reset = .next t ∧ t.readV 3 = 0x07 ∧ t.draws = 1 := by
  refine ⟨_, rfl, ?_, rfl⟩
  show Config.rndByte 0 &&& 0x0F#8 = 0x07#8
  rw [h]
  decide
/-- A38. -/
theorem test_rnd_A38 : ∃ t, exec (.rnd 3 0) State.reset = .next t ∧ t.readV 3 = 0 := by
  refine ⟨_, rfl, ?_⟩
  show Config.rndByte 0 &&& 0#8 = 0#8
  exact BitVec.and_zero

/-! ### Index register and memory transfers (vectors M1 to M17) -/

theorem test_ldI_M1 : after (ready 0xA2F0) (·.i) = some 0x2F0 := by decide
theorem test_addI_M4 :
    after ((withV (ready 0xF21E) 2 1).setI 0xFFFF) (fun t => (t.i, vv t 15)) = some (0, 0) := by decide
theorem test_addI_M3 :
    after ((withV (ready 0xF21E) 2 1).setI 0xFFF) (fun t => (t.i, t.events)) =
      some (0x1000, [.trace 0x200 0xF21E]) := by decide
theorem test_ldF_M6_M7 :
    after (withV (ready 0xF429) 4 0x1A) (·.i) = some 0x32 ∧ after (withV (ready 0xF429) 4 0xF) (·.i) = some 0x4B := by
  decide
theorem test_bcd_M8 :
    after ((withV (ready 0xF333) 3 0x9C).setI 0x300) (fun t => (mm t 0x300, mm t 0x301, mm t 0x302, t.i)) =
      some (1, 5, 6, 0x300) := by decide
theorem test_bcd_wraps_M11 :
    after ((withV (ready 0xF333) 3 7).setI 0xFFE) (fun t => (mm t 0xFFE, mm t 0xFFF, mm t 0, t.events.head?)) =
      some (0, 0, 7, some (.diag (.memOob 0x1000))) := by decide
theorem test_store_M12_M13 :
    after ((withV (withV (withV (ready 0xF255) 0 0x11) 1 0x22) 2 0x33).setI 0x400)
      (fun t => (mm t 0x400, mm t 0x401, mm t 0x402, mm t 0x403, t.i)) = some (0x11, 0x22, 0x33, 0, 0x400) ∧
    after ((withV (readyWith { standardConfig with ldstIncI := true } 0xF255) 2 0x33).setI 0x400)
      (fun t => (mm t 0x402, t.i)) = some (0x33, 0x403) := by decide
theorem test_store_wraps_M15 :
    after ((withV (withV (ready 0xFF55) 15 0x0F) 7 7).setI 0xFF8)
      (fun t => (mm t 0xFFF, mm t 7, t.events.take 2, t.events.length)) =
      some (7, 0x0F, [.diag (.memOob 0x1000), .diag (.memOob 0x1001)], 9) := by decide
theorem test_load_M17 :
    after (ready 0xFF65) (fun t => (vv t 0, vv t 1, vv t 5, vv t 9, vv t 15, t.i)) =
      some (0xF0, 0x90, 0x20, 0x70, 0xF0, 0) := by decide
theorem test_load_leaves_above_M16 :
    after ((withV (ready 0xF165) 2 0x99).setI 0x4F) (fun t => (vv t 0, vv t 1, vv t 2)) = some (0x80, 0, 0x99) := by
  decide

/-! ### Display (vectors D1 to D13) -/

/-- The reset state with one pixel on. -/
def onePixel (s : State) (x y : Nat) : State := { s with fb := Framebuffer.flip s.fb x y }

theorem test_cls_D1 :
    after (onePixel (ready 0x00E0) 3 4) (fun t => (t.pixel 3 4, t.dirty, t.fbWe)) = some (false, true, true) := by
  decide
theorem test_drw_glyph_D3 :
    after (ready 0xD011) (fun t => (t.pixel 0 0, t.pixel 3 0, t.pixel 4 0, t.dirty, vv t 15)) =
      some (true, true, false, true, 0) := by decide
theorem test_drw_clips_D9 :
    after (withV (ready 0xD011) 0 0x3E) (fun t => (t.pixel 62 0, t.pixel 63 0, t.pixel 0 0, t.pixel 1 0)) =
      some (true, true, false, false) := by decide
theorem test_drw_collides_D11 :
    after ((onePixel ((ready 0xD011).writeByte 0x300 0x90) 0 0).setI 0x300)
      (fun t => (t.pixel 0 0, t.pixel 3 0, vv t 15)) = some (false, true, 1) := by decide
theorem test_drw_latches_vf_D12 :
    after (withV (ready 0xDF11) 15 5) (fun t => (t.pixel 5 0, t.pixel 0 0, vv t 15)) = some (true, false, 0) := by
  decide
theorem test_drw_bottom_D6 :
    after ((withV (ready 0xD015) 1 0x1F).setI 0xFFF)
      (fun t => (t.pixel 0 0, t.events)) = some (false, [.trace 0x200 0xD015]) := by decide

/-! ### Keypad and timers (vectors K1 to K13, TT1 to TT5) -/

theorem test_skp_K1_K2 :
    after ((withV (ready 0xE29E) 2 5).key 5 true) pp = some 0x204 ∧ after (withV (ready 0xE29E) 2 5) pp = some 0x202 := by
  decide
theorem test_skp_out_of_range_K5 :
    after ((withV (ready 0xE29E) 2 0x15).key 5 true) (fun t => (pp t, t.events.head?)) =
      some (0x204, some (.diag (.keyOob 0x15))) := by decide
theorem test_sknp_K3_K4 :
    after (withV (ready 0xE2A1) 2 5) pp = some 0x204 ∧
    after ((withV (ready 0xE2A1) 2 5).key 5 true) pp = some 0x202 := by decide
theorem test_key_wait_K6 :
    after (withV (ready 0xF30A) 3 0x99) (fun t => (pp t, vv t 3)) = some (0x200, 0x99) := by decide
theorem test_key_wait_K7 :
    after { ready 0xF30A with keys := 0x0120 } (fun t => (pp t, vv t 3)) = some (0x202, 5) := by decide
theorem test_ldVxDt_K10 : after ((ready 0xF507).setDt 0x3C) (vv · 5) = some 0x3C := by decide
theorem test_ldDtVx_K11 : after (withV (ready 0xF515) 5 0x3C) (·.dt) = some 0x3C := by decide
theorem test_ldStVx_K12_K13 :
    after (withV (ready 0xF118) 1 2) (fun t => (t.st, t.soundOn)) = some (2, true) ∧
    after ((ready 0xF118).setSt 5) (fun t => (t.st, t.soundOn)) = some (0, false) := by decide
theorem test_tick_TT1_TT2 :
    (State.reset.setDt 1).tick.dt = 0 ∧ ((State.reset.setSt 3).tick.dt, (State.reset.setSt 3).tick.st) = (0, 2) := by
  decide
theorem test_tick_paused_TT3 : ((State.reset.setDt 5).setStatus .paused).tick.dt = 5 := by decide

/-! ### Host interface and INIT (vectors H1 to H6, T4, T5, S1) -/

theorem test_host_H1_H3 :
    State.reset.pause.status = .paused ∧ State.reset.pause.resume.status = .running ∧
    State.reset.halt.resume.status = .halted ∧ State.reset.halt.pause.status = .halted := by decide
theorem test_key_H4 : (State.reset.key 7 true).keys = 0x0080 ∧ ((State.reset.key 7 true).key 7 false).keys = 0 := by
  decide
theorem test_dirty_clr_H5 : (State.reset.setDirty true).dirtyClr.dirty = false := by decide
theorem test_init_missing_T5 :
    initialise standardConfig 0 .missing = .error .missingOrUnreadable := by rfl
theorem test_init_rom_S1 :
    (match initialise standardConfig 0 (.bytes [0x60, 0x05, 0x70, 0x03]) with
      | .ok s => [mm s 0x1FF, mm s 0x200, mm s 0x201, mm s 0x202, mm s 0x203, mm s 0x204, mm s 0]
      | .error _ => []) = [0, 0x60, 0x05, 0x70, 0x03, 0, 0xF0] := by decide
/-- 93 U4, U1, U5: the alternative policies. -/
theorem test_fault_policies :
    after ((readyWith { standardConfig with oob := .fault } 0xF033).setI 0xFFE) pp = none ∧
    after ((State.resetWith { standardConfig with oob := .fault } 0).setPc 0x1000) pp = none ∧
    after (withV (readyWith { standardConfig with keyOob := .fault } 0xE09E) 0 0x10) pp = none ∧
    after ((readyWith { standardConfig with oob := .fault } 0xF033).setI 0xFFD) pp = some 0x202 := by decide

/-! ### Witnesses: the hypotheses of each obligation can be met, clause by clause -/

/-- A state at a CALL with a full stack. -/
def fullStack : State := { ready 0x2300 with sp := 12 }

/-- A stop-on-range machine. -/
def faulting (op : Nat) : State := readyWith { standardConfig with oob := .fault, keyOob := .fault } op

/-- A machine with the trace off. -/
def untraced (op : Nat) : State := readyWith { standardConfig with trace := false } op

/-- The state the body of the instruction at PC begins in (R100, R103). -/
def bodyStart (s : State) : State := { s with pc := s.pc + 2, events := s.events ++ s.pcEvents }

theorem witness_DecodeOfEncodeIsIdentity :
    (Instr.sys 0x0DF).wf true = true ∧ (Instr.seReg 1 2 0).wf true = true ∧ (Instr.seReg 1 2 15).wf false = true := by
  decide
theorem witness_EncodeOfDecodeIsIdentity : decodeWord true 0x9120 = .ok (.sneReg 1 2 0) := by decide
theorem witness_FetchReadsBigEndianWord :
    State.reset.cfg.oob = .mask ∧ (State.reset.setPc 0x0FFF).cfg.oob = .mask := by decide
theorem witness_StepRunsDecodedInstruction_traced :
    (ready 0x1ABC).status = .running ∧ (ready 0x1ABC).fetchOk ∧ (ready 0x1ABC).current = .ok (.jp 0xABC) ∧
    ∃ t, exec (.jp 0xABC) (bodyStart (ready 0x1ABC)) = .next t ∧
      t.status = .running ∧ t.cfg.trace = true :=
  ⟨rfl, .inl rfl, by decide, _, rfl, rfl, rfl⟩
theorem witness_StepRunsDecodedInstruction_untraced :
    (untraced 0x1ABC).status = .running ∧ (untraced 0x1ABC).fetchOk ∧
    (untraced 0x1ABC).current = .ok (.jp 0xABC) ∧
    ∃ t, exec (.jp 0xABC) (bodyStart (untraced 0x1ABC)) = .next t ∧
      t.status = .running ∧ t.cfg.trace = false :=
  ⟨rfl, .inl rfl, by decide, _, rfl, rfl, rfl⟩
theorem witness_StepRunsDecodedInstruction_halts :
    fullStack.status = .running ∧ fullStack.fetchOk ∧ fullStack.current = .ok (.call 0x300) ∧
    ∃ t, exec (.call 0x300) (bodyStart fullStack) = .next t ∧ t.status ≠ .running :=
  ⟨rfl, .inl rfl, by decide, _, rfl, by decide⟩
theorem witness_StepRunsDecodedInstruction_faults :
    ((faulting 0xF033).setI 0x0FFE).status = .running ∧ ((faulting 0xF033).setI 0x0FFE).fetchOk ∧
    ((faulting 0xF033).setI 0x0FFE).current = .ok (.ldB 0) ∧
    exec (.ldB 0) (bodyStart ((faulting 0xF033).setI 0x0FFE)) =
      .fault (.memOutOfRange 0x1000) :=
  ⟨rfl, .inr (by decide), by decide, rfl⟩
theorem witness_UnknownWordIsReportedNoOp :
    (ready 0x8018).status = .running ∧ (ready 0x8018).fetchOk ∧
    (ready 0x8018).current = .error (.unknownOpcode 0x8018) := ⟨rfl, .inl rfl, by decide⟩
theorem witness_UnknownWordIsReportedNoOp_sys :
    (ready 0x0123).status = .running ∧ (ready 0x0123).fetchOk ∧
    ((ready 0x0123).current = .ok (.sys 0x123) ∧ (0x0123 : Word) = encode (.sys 0x123)) :=
  ⟨rfl, .inl rfl, by decide, by decide⟩
theorem witness_StatusGatesStep :
    State.reset.pause.status = .paused ∧ State.reset.halt.status = .halted := by decide
theorem witness_StepAlwaysAnswers : State.reset.cfg.oob = .mask ∧ State.reset.cfg.keyOob = .mask := by decide
theorem witness_StepKeepsInvariant : State.reset.Inv ∧ ∃ t, step State.reset = .next t :=
  ⟨⟨rfl, fun h => absurd rfl h⟩, _, rfl⟩
theorem witness_HostEventsKeepInvariant :
    (Block.up State.reset).Inv ∧
    ∃ b, (Block.up State.reset).run [.step, .tick, .init (.bytes [0x12]), .key 1 true, .pause] = .next b :=
  ⟨⟨rfl, fun h => absurd rfl h⟩, _, rfl⟩
theorem witness_OnlyStackFaultsHaltAStep :
    fullStack.status = .running ∧ ∃ t, step fullStack = .next t ∧ t.status ≠ .running :=
  ⟨rfl, _, rfl, by decide⟩
theorem witness_StackFaultStepIsPrecise :
    fullStack.status = .running ∧ fullStack.fetchOk ∧ fullStack.current = .ok (.call 0x300) ∧
    fullStack.sp.val = 12 ∧ (ready 0x03EE).status = .running ∧ (ready 0x03EE).fetchOk ∧
    (ready 0x03EE).current = .ok (.ret 3) ∧ (ready 0x03EE).sp.val = 0 :=
  ⟨rfl, .inl rfl, by decide, rfl, rfl, .inl rfl, by decide, rfl⟩
theorem witness_HaltedIsFinalUntilInit :
    State.reset.halt.status = .halted ∧
    ∀ rom, HostEvent.init rom ∉ [HostEvent.step, .tick, .key 3 true, .resume, .dirtyClr] :=
  ⟨rfl, fun rom h => by simp at h⟩
theorem witness_OnlyDisplayStepsWriteFramebuffer :
    (ready 0xD011).status = .running ∧ (∃ t, step (ready 0xD011) = .next t ∧ t.fbWe = true) ∧
    ∃ t, step (ready 0x6005) = .next t ∧ t.fbWe = false := ⟨rfl, ⟨_, rfl, by decide⟩, _, rfl, by decide⟩
theorem witness_OnlyStoresWriteMemory :
    ∃ t, exec (.ldB 0) State.reset = .next t ∧ t.readByte 0 ≠ State.reset.readByte 0 := ⟨_, rfl, by decide⟩
theorem witness_RegistersChangeOnlyAsListed :
    ∃ t, exec (.addReg 0xF 1) (withV State.reset 15 9) = .next t ∧
      t.readV 0xF#4 ≠ (withV State.reset 15 9).readV 0xF#4 := ⟨_, rfl, by decide⟩
theorem witness_PrivateStateHasFewWriters_registers :
    (∃ t, exec (.ldI 5) State.reset = .next t ∧ t.i ≠ State.reset.i) ∧
    (∃ t, exec (.call 5) State.reset = .next t ∧ t.stack ≠ State.reset.stack ∧ t.sp ≠ State.reset.sp) ∧
    (∃ t, exec (.ldDtVx 0) (withV State.reset 0 1) = .next t ∧ t.dt ≠ (withV State.reset 0 1).dt) ∧
    (∃ t, exec (.ldStVx 0) (withV State.reset 0 1) = .next t ∧ t.st ≠ (withV State.reset 0 1).st) :=
  ⟨⟨_, rfl, by decide⟩, ⟨_, rfl, by decide, by decide⟩, ⟨_, rfl, by decide⟩, ⟨_, rfl, by decide⟩⟩
theorem witness_PrivateStateHasFewWriters_others :
    (∃ t, exec (.cls 0) State.reset = .next t ∧ t.dirty ≠ State.reset.dirty) ∧
    (∃ t, exec (.ret 0) State.reset = .next t ∧ t.fault ≠ State.reset.fault ∧ t.status ≠ State.reset.status) ∧
    (∃ t, exec (.rnd 0 0) State.reset = .next t ∧ t.draws ≠ State.reset.draws) :=
  ⟨⟨_, rfl, by decide⟩, ⟨_, rfl, by decide, by decide⟩, ⟨_, rfl, by show (1 : Nat) ≠ 0; decide⟩⟩
theorem witness_WriteChangesOnlyItsByte : State.reset.memWf := rfl
theorem witness_MemoryFormIsCanonical :
    Memory.wf standardFont [(0x200, 0x12), (0xFFF, 1)] = true ∧ Memory.wf standardFont [] = true := by decide
theorem witness_RetPopsOrUnderflows : 0 < fullStack.sp.val ∧ State.reset.sp.val = 0 := by decide
theorem witness_CallPushesOrOverflows :
    { State.reset with sp := 11 }.sp.val < 12 ∧ fullStack.sp.val = 12 := by decide
theorem witness_SysIsReportedNoOp :
    (0x0DF : Addr).toNat % 256 ≠ 0xE0 ∧ (0x0DF : Addr).toNat % 256 ≠ 0xEE ∧
    (0xFEF : Addr).toNat % 256 ≠ 0xE0 ∧ (0xFEF : Addr).toNat % 256 ≠ 0xEE := by decide
theorem witness_RegisterSkipsCompare :
    (false = false ∨ (0xF#4 : Nibble) = 0x0#4) ∧ (true = false ∨ (0x0#4 : Nibble) = 0x0#4) := by decide
/-- A CALL whose target is a RET. -/
def callRet : State := (ready 0x2300).writeByte 0x301 0xEE
theorem witness_CallThenRetReturns :
    callRet.status = .running ∧ callRet.fetchOk ∧ callRet.current = .ok (.call 0x300) ∧ callRet.sp.val < 12 ∧
    ∃ t, step callRet = .next t ∧ t.fetchOk ∧ t.current = .ok (.ret 0) :=
  ⟨rfl, .inl rfl, by decide, by decide, _, rfl, .inl rfl, by decide⟩
/-- The hypotheses on i and f of LogicOperationsBitwise are met by its three instructions; those on the
parameters by the two values of P_LOGIC_VF. -/
theorem witness_LogicOperationsBitwise :
    (Instr.orReg 1 2 = .orReg 1 2 ∧ (fun a b : Bool => a || b) = fun a b => a || b) ∧
    State.reset.cfg.logicVF = .unchanged ∧
    (State.resetWith { standardConfig with logicVF := .cleared } 0).cfg.logicVF = .cleared ∧ (1#4 ≠ 0xF#4) :=
  ⟨⟨rfl, rfl⟩, rfl, rfl, by decide⟩
theorem witness_destination_not_VF : (0xE#4 : Nibble) ≠ 0xF#4 := by decide
theorem witness_SubtractsSetDifferenceAndNoBorrow :
    (Instr.sub 1 2 = .sub 1 2 ∧ (withV State.reset 1 5).readV 1 = 5) ∧
    (Instr.subn 1 2 = .subn 1 2 ∧ (withV State.reset 2 5).readV 2 = 5) := by decide
theorem witness_stores_and_loads_masked :
    State.reset.memWf ∧ State.reset.accessOk 3 ∧ (State.reset.setI 0xFFFF).accessOk 16 :=
  ⟨rfl, .inl rfl, .inl rfl⟩
theorem witness_stores_and_loads_in_range :
    ((faulting 0).setI 0xFFD).memWf ∧ ((faulting 0).setI 0xFFD).accessOk 3 :=
  ⟨by decide, .inr (by decide)⟩
/-- X = 1 over glyph bytes, from I = 0. -/
theorem witness_StoreThenLoadRestoresRegisters :
    State.reset.memWf ∧ ∃ t, exec (.stRegs 1) (withV State.reset 0 7) = .next t ∧
      ∃ w, exec (.ldRegs 1) t = .next w ∧ t.i = (withV State.reset 0 7).i :=
  ⟨rfl, _, rfl, _, rfl, by decide⟩
theorem witness_StoredWordIsFetched :
    State.reset.memWf ∧ 1 ≤ (1#4 : Nibble).toNat ∧ ∃ t, exec (.stRegs 1) State.reset = .next t :=
  ⟨rfl, by decide, _, rfl⟩
theorem witness_FaultPoliciesStop_memory :
    ((faulting 0).setI 0xFFE).cfg.oob = .fault ∧ 2 < 3 ∧ 4095 < ((faulting 0).setI 0xFFE).i.toNat + 2 ∧
    ∀ j < 2, ((faulting 0).setI 0xFFE).i.toNat + j ≤ 4095 := by decide
theorem witness_FaultPoliciesStop_draw :
    0 < min (1#4 : Nibble).toNat (32 - (((faulting 0).setI 0x1000).readV 0).toNat % 32) ∧
    4095 < ((faulting 0).setI 0x1000).i.toNat + 0 := by decide
theorem witness_FaultPoliciesStop_fetch_and_key :
    ((faulting 0).setPc 0x0FFF).status = .running ∧ 0x0FFE < ((faulting 0).setPc 0x0FFF).pc.toNat ∧
    (withV (faulting 0) 0 0x10).cfg.keyOob = .fault ∧ 0x0F < ((withV (faulting 0) 0 0x10).readV 0).toNat := by
  decide
theorem witness_DrawXorsClippedSprite :
    State.reset.accessOk 15 ∧
    (faulting 0).accessOk (min (15#4 : Nibble).toNat (32 - ((faulting 0).readV 0).toNat % 32)) :=
  ⟨.inl rfl, .inr (by decide)⟩
theorem witness_DrawXorsClippedSprite_collision :
    ∃ t, exec (.drw 0 1 1) (onePixel State.reset 0 0) = .next t ∧
      (onePixel State.reset 0 0).pixel 0 0 = true ∧ t.pixel 0 0 = false := ⟨_, rfl, by decide, by decide⟩
theorem witness_DrawXorsClippedSprite_no_collision :
    ∃ t, exec (.drw 0 1 0) State.reset = .next t ∧
      ∀ px < 64, ∀ py < 32, ¬(State.reset.pixel px py = true ∧ t.pixel px py = false) :=
  ⟨_, rfl, fun px _ py _ h => by
    have : State.reset.pixel px py = false := by
      unfold State.pixel Framebuffer.get
      split
      · simp [State.reset, State.resetWith]
      · rfl
    rw [this] at h
    exact Bool.noConfusion h.1⟩
theorem witness_DrawTwiceRestoresFramebuffer :
    (0#4 : Nibble) ≠ 0xF#4 ∧ ∃ t, exec (.drw 0 1 1) State.reset = .next t ∧ ∃ w, exec (.drw 0 1 1) t = .next w :=
  ⟨by decide, _, rfl, _, rfl⟩
theorem witness_DrawAtEdgeIsClipped :
    ∃ t, exec (.drw 0 1 1) (withV (withV State.reset 0 0xFF) 1 0xFF) = .next t ∧
      t.pixel 63 31 ≠ (withV (withV State.reset 0 0xFF) 1 0xFF).pixel 63 31 ∧
      ((withV (withV State.reset 0 0xFF) 1 0xFF).readV 0).toNat % 64 = 63 ∧
      ((withV (withV State.reset 0 0xFF) 1 0xFF).readV 1).toNat % 32 = 31 :=
  ⟨_, rfl, by decide, by decide, by decide⟩
theorem witness_KeySkipsTestOneKey :
    (withV State.reset 0 0x10).cfg.keyOob = .mask ∧ ((withV (faulting 0) 0 0x0F).readV 0).toNat ≤ 0x0F := by decide
theorem witness_KeyWaitTakesLowestKey : State.reset.keys = 0 ∧ (State.reset.key 15 true).keys ≠ 0 := by decide
theorem witness_KeyWaitRepeatsUntilKey :
    (ready 0xF30A).status = .running ∧ (ready 0xF30A).fetchOk ∧ (ready 0xF30A).current = .ok (.ldVxK 3) ∧
    (ready 0xF30A).keys = 0 := ⟨rfl, .inl rfl, by decide, by decide⟩
theorem witness_TickDecrementsBothTimers :
    State.reset.status = .running ∧ State.reset.pause.status ≠ .running := by decide
theorem witness_TimersReachZeroAfterThatManyTicks : (State.reset.setDt 0xFF).status = .running := rfl
theorem witness_InitBuildsResetState : (List.replicate 3584 (0xFF : Byte)).length ≤ 3584 :=
  Nat.le_of_eq List.length_replicate
theorem witness_StartupFaultsLeaveNoState :
    3584 < (List.replicate 3585 (0xFF : Byte)).length ∧ ∀ r, HostEvent.init r ∉ [HostEvent.step, .tick] :=
  ⟨Nat.lt_of_lt_of_eq (by decide) List.length_replicate.symm, fun r h => by simp at h⟩

end Sys2Proof.Tests
end

section
/-! PROOFS. When the alternative policies of 00_scope.md R9 and 93_implementation_defined.md U5 stop the model. -/

namespace Sys2Proof.Machine

/-- Under P_OOB = fault the address check stops at the least offset from I whose address is above 4095. -/
theorem State.access_stopped {s : State} {n k : Nat} (f : State → State) (hoob : s.cfg.oob = .fault)
    (hk : k < n) (habove : 4095 < s.i.toNat + k) (hbelow : ∀ j < k, s.i.toNat + j ≤ 4095) :
    s.access (s.iRange n) f = .fault (.memOutOfRange (s.i.toNat + k)) := by
  have hfirst : (s.iRange n).find? (fun e => decide (4095 < e)) = some (s.iRel k) := by
    rw [State.iRange, List.find?_map, Option.map_eq_some_iff]
    refine ⟨k, List.find?_range_eq_some.mpr ⟨decide_eq_true habove, List.mem_range.mpr hk, fun j hlt => ?_⟩, rfl⟩
    have hj : ¬4095 < s.iRel j := Nat.not_lt.mpr (hbelow j hlt)
    simpa using hj
  simp only [State.access, hoob, hfirst, State.iRel]

/-- Under the like policy for keys, a key number above 0x0F stops the model. -/
theorem State.withKeyIndex_stopped {s : State} {v : Byte} (f : Nibble → State → State)
    (hkey : s.cfg.keyOob = .fault) (hv : 0x0F < v.toNat) :
    s.withKeyIndex v f = .fault (.keyOutOfRange v) := by
  simp only [State.withKeyIndex, if_neg (Nat.not_le.mpr hv), hkey]

/-- A running step whose fetch is stopped. -/
theorem step_fetch_stopped {s : State} (hr : s.status = .running) (hf : ¬s.fetchOk) :
    step s = .fault (.pcOutOfRange s.pc) := by
  simp only [step, hr, State.fetch_stopped hf]

/-- Settles O44: the stop of the address check, of the fetch and of the key number, each at the
instructions that use it. -/
theorem faultPoliciesStop : Obligations.FaultPoliciesStop := by
  refine ⟨fun s i n k hoob hi hk habove hbelow => ?_, fun s hoob hr hpc => ?_, fun s x hkey hv => ?_⟩
  · have hstop := fun f => State.access_stopped f hoob hk habove hbelow
    rcases hi with ⟨x, rfl, rfl⟩ | ⟨x, rfl, rfl⟩ | ⟨x, rfl, rfl⟩ | ⟨x, y, m, rfl, rfl⟩
    · exact show execLdB x s = _ from hstop _
    · exact show execStRegs x s = _ from hstop _
    · exact show execLdRegs x s = _ from hstop _
    · exact show execDrw x y m s = _ from hstop _
  · have hf : ¬s.fetchOk := by
      rintro (hmask | hle)
      · rw [hoob] at hmask; cases hmask
      · exact absurd hle (Nat.not_le.mpr hpc)
    exact step_fetch_stopped hr hf
  · exact ⟨show execSkp x s = _ from State.withKeyIndex_stopped _ hkey hv,
      show execSknp x s = _ from State.withKeyIndex_stopped _ hkey hv⟩

end Sys2Proof.Machine
end

section
/-! PROOFS. The invariant of the block, and who writes its state: what the host's inputs and INIT do, what every
step and every event keeps, and which instructions write which piece of state (10_state.md). -/

namespace Sys2Proof.Machine

/-! ### The host's inputs -/

theorem State.pause_eq (s : State) : s.pause = if s.status = .running then s.setStatus .paused else s := by
  unfold State.pause
  cases s.status <;> rfl

theorem State.resume_eq (s : State) : s.resume = if s.status = .paused then s.setStatus .running else s := by
  unfold State.resume
  cases s.status <;> rfl

theorem State.tick_eq (s : State) :
    s.tick = if s.status = .running then (s.setDt (decrement s.dt)).setSt (decrement s.st) else s := by
  unfold State.tick
  cases s.status <;> rfl

theorem State.setStatus_self {s : State} {x : Status} (h : s.status = x) : s.setStatus x = s := by
  subst h; rfl

theorem Preserves.pause (s : State) : Preserves { status := true } s s.pause := by
  rw [State.pause_eq]
  split
  · exact Preserves.setStatus s _
  · exact Preserves.refl _ s

theorem Preserves.resume (s : State) : Preserves { status := true } s s.resume := by
  rw [State.resume_eq]
  split
  · exact Preserves.setStatus s _
  · exact Preserves.refl _ s

/-- KEY(k, b) puts b in bit k of KEYS and leaves the other bits (R46). -/
theorem State.getLsbD_key (s : State) (k : Nibble) (b : Bool) {j : Nat} (hj : j < 16) :
    (s.key k b).keys.getLsbD j = if j = k.toNat then b else s.keys.getLsbD j := by
  have hbit : (1#16 <<< k.toNat).getLsbD j = decide (j = k.toNat) := by
    rw [BitVec.getLsbD_shiftLeft, BitVec.getLsbD_one, Bool.eq_iff_iff]
    simp only [Bool.and_eq_true, Bool.not_eq_true', decide_eq_true_eq, decide_eq_false_iff_not]
    omega
  rw [State.key_keys]
  cases b with
  | false =>
    rw [if_neg Bool.false_ne_true, BitVec.getLsbD_and, BitVec.getLsbD_not, hbit]
    by_cases hjk : j = k.toNat <;> simp [hj, hjk]
  | true =>
    rw [if_pos rfl, BitVec.getLsbD_or, hbit]
    by_cases hjk : j = k.toNat <;> simp [hjk]

/-- Settles O55: the frame of each input, and the value it writes. -/
theorem hostInputsWriteOnlyTheirState : Obligations.HostInputsWriteOnlyTheirState := by
  intro s k b
  refine ⟨⟨_, rfl, Preserves.key s k b, fun j hj => State.getLsbD_key s k b hj⟩,
    ⟨_, rfl, Preserves.pause s, ?_⟩, ⟨_, rfl, Preserves.resume s, ?_⟩,
    ⟨_, rfl, Preserves.setStatus s _, rfl⟩, ⟨_, rfl, Preserves.setDirty s _, rfl⟩⟩
  · rw [State.pause_eq]; split <;> rfl
  · rw [State.resume_eq]; split <;> rfl

/-! ### Halted is final -/

/-- A halted machine under one event that is no INIT. -/
theorem State.react_halted {s : State} {e : HostEvent} (hs : s.status = .halted)
    (he : ∀ rom, e ≠ .init rom) :
    ∃ t, s.react e = .next (.up t) ∧ t.status = .halted ∧ Preserves { keys := true, dirty := true } s t := by
  have stays : ∀ t, t = s → t.status = .halted ∧ Preserves { keys := true, dirty := true } s t := by
    rintro t rfl
    exact ⟨hs, Preserves.refl _ _⟩
  have hrun : s.status ≠ .running := by simp [hs]
  cases e with
  | step => exact ⟨s, by simp only [State.react, step_not_running hrun], stays s rfl⟩
  | tick => exact ⟨_, rfl, stays _ (by rw [State.tick_eq, if_neg hrun])⟩
  | init rom => exact absurd rfl (he rom)
  | key k b => exact ⟨_, rfl, hs, (Preserves.key s k b).weaken { }⟩
  | pause => exact ⟨_, rfl, stays _ (by rw [State.pause_eq, if_neg hrun])⟩
  | resume => exact ⟨_, rfl, stays _ (by rw [State.resume_eq, if_neg (by simp [hs])])⟩
  | halt => exact ⟨_, rfl, stays _ (State.setStatus_self hs)⟩
  | dirtyClr => exact ⟨_, rfl, hs, (Preserves.setDirty s _).weaken { }⟩

theorem Block.run_cons {b b' : Block} {e : HostEvent} (h : b.react e = .next b') (es : List HostEvent) :
    b.run (e :: es) = b'.run es := by
  simp only [Block.run, h]

/-- Settles O16, by induction on the events. -/
theorem haltedIsFinalUntilInit : Obligations.HaltedIsFinalUntilInit := by
  intro s es hs hes
  induction es generalizing s with
  | nil => exact ⟨s, rfl, hs, Preserves.refl _ s⟩
  | cons e es ih =>
    obtain ⟨u, hu, hsu, hpu⟩ :=
      State.react_halted hs fun rom he => hes rom (he ▸ List.mem_cons_self)
    obtain ⟨t, ht, hst, hpt⟩ := ih u hsu fun rom h => hes rom (List.mem_cons_of_mem e h)
    exact ⟨t, (Block.run_cons (b := .up s) hu es).trans ht, hst, hpu.trans hpt⟩

/-! ### INIT -/

theorem initialise_bytes (cfg : Config) (draws : Nat) {rom : List Byte} (h : rom.length ≤ 3584) :
    initialise cfg draws (.bytes rom) = .ok ((State.resetWith cfg draws).writeBytes 0x200 rom) :=
  if_neg (Nat.not_lt.mpr h)

theorem Block.afterInit_bytes (cfg : Config) (draws : Nat) {rom : List Byte} (h : rom.length ≤ 3584) :
    Block.afterInit cfg draws (.bytes rom) = .up ((State.resetWith cfg draws).writeBytes 0x200 rom) := by
  simp only [Block.afterInit, initialise_bytes cfg draws h]

theorem Memory.unlisted_of_lt (font : Vector Byte 80) {a : Nat} (h : a < 80) :
    Memory.unlisted font a = font[a]?.getD 0 := by
  simp [Memory.unlisted, h]

theorem Memory.unlisted_of_le (font : Vector Byte 80) {a : Nat} (h : 80 ≤ a) : Memory.unlisted font a = 0 :=
  dif_neg (Nat.not_lt.mpr h)

/-- Memory after INIT: FONT, the ROM from 0x200, zero elsewhere (R272). -/
theorem State.readByte_init (cfg : Config) (draws : Nat) {rom : List Byte} (h : rom.length ≤ 3584) (a : Addr) :
    ((State.resetWith cfg draws).writeBytes 0x200 rom).readByte a =
      if a.toNat < 80 then cfg.font[a.toNat]?.getD 0
      else if a.toNat < 0x200 then 0 else rom.getD (a.toNat - 0x200) 0 := by
  have hreset : (State.resetWith cfg draws).readByte a = Memory.unlisted cfg.font a.toNat := rfl
  rw [State.readByte_writeBytes rom _ 0x200 a (State.memWf_resetWith cfg draws) (by omega), hreset]
  by_cases hfont : a.toNat < 80
  · rw [if_neg (by omega), if_pos hfont, Memory.unlisted_of_lt cfg.font hfont]
  · rw [if_neg hfont, Memory.unlisted_of_le cfg.font (Nat.not_lt.mp hfont)]
    by_cases hrom : a.toNat < 0x200
    · rw [if_neg (by omega), if_pos hrom]
    · rw [if_pos (by omega), if_neg hrom]

theorem State.readV_resetWith (cfg : Config) (draws : Nat) (x : Nibble) :
    (State.resetWith cfg draws).readV x = 0 :=
  Vector.getElem_replicate _

theorem State.pixel_resetWith (cfg : Config) (draws px py : Nat) :
    (State.resetWith cfg draws).pixel px py = false :=
  Framebuffer.get_blank px py

/-- Settles O56: memory by the law of a run of bytes, everything else as in the reset state. -/
theorem initBuildsResetState : Obligations.InitBuildsResetState := by
  intro s rom hlen
  refine ⟨_, congrArg _ (Block.afterInit_bytes s.cfg s.draws hlen), State.readByte_init _ _ hlen, ?_⟩
  have hwf := State.memWf_writeBytes rom _ 0x200 (State.memWf_resetWith s.cfg s.draws)
  obtain ⟨m, hm⟩ := State.writeBytes_mem_only rom (State.resetWith s.cfg s.draws) 0x200
  rw [hm] at hwf ⊢
  exact ⟨State.readV_resetWith s.cfg s.draws, rfl, rfl, rfl, fun _ hk => Vector.getElem_replicate hk,
    rfl, rfl, rfl, State.pixel_resetWith s.cfg s.draws, rfl, rfl, rfl, rfl, hwf⟩

/-- Settles O58: INIT writes no byte of an empty ROM, and the glyphs are read from FONT. -/
theorem resetIsInitOfEmptyRom : Obligations.ResetIsInitOfEmptyRom :=
  ⟨initialise_bytes standardConfig 0 (Nat.zero_le _), rfl, rfl, rfl, by decide, by decide⟩

/-! ### The invariant -/

/-- The invariant reads MEM, the parameters, STATUS and FAULT alone. -/
theorem State.Inv.of_eq {s t : State} (h : s.Inv) (hmem : t.mem = s.mem) (hcfg : t.cfg = s.cfg)
    (hstatus : t.status = s.status) (hfault : t.fault = s.fault) : t.Inv where
  memory := by rw [hmem, hcfg]; exact h.memory
  faultHalted := by rw [hstatus, hfault]; exact h.faultHalted

/-- A machine that is not halted has no recorded fault, so its STATUS may become anything; a halted one may
only stay halted. -/
theorem State.Inv.setStatus {s : State} (h : s.Inv) {x : Status} (hx : s.status = .halted → x = .halted) :
    (s.setStatus x).Inv where
  memory := h.memory
  faultHalted hf := hx (h.faultHalted hf)

theorem State.Inv.entered {s : State} (h : s.Inv) : s.entered.Inv := h.of_eq rfl rfl rfl rfl

theorem State.Inv.endStep {t : State} (h : t.Inv) (a op : Word) (d : Bool) : (t.endStep a op d).Inv :=
  have hp := Preserves.endStep t a op d
  h.of_eq (State.endStep_mem t a op d) hp.cfg (hp.status rfl) (hp.fault rfl)

/-- The body of an instruction records a fault only where it halts. -/
theorem exec_keeps_inv {i : Instr} {s t : State} (h : s.Inv) (he : exec i s = .next t) : t.Inv where
  memory := exec_memWf h.memory he
  faultHalted := by
    rcases exec_status he with ⟨hstatus, hfault⟩ | ⟨_, _, _, rfl⟩ | ⟨_, _, _, rfl⟩
    · rw [hstatus, hfault]; exact h.faultHalted
    · exact fun _ => State.raiseFault_status _ _ _
    · exact fun _ => State.raiseFault_status _ _ _

/-- Settles O11: by the three things a step that answers next can do. -/
theorem stepKeepsInvariant : Obligations.StepKeepsInvariant := by
  intro s t h hstep
  rcases step_cases hstep with ⟨_, rfl⟩ | ⟨_, _, ⟨i, u, _, hexec, rfl⟩ | ⟨e, _, rfl⟩⟩
  · exact h
  · exact (exec_keeps_inv h.entered hexec).endStep _ _ _
  · have hu : (s.entered.unknownOpcode s.fetchWord).Inv := h.entered.of_eq rfl rfl rfl rfl
    exact hu.endStep _ _ _

theorem State.inv_resetWith (cfg : Config) (draws : Nat) : (State.resetWith cfg draws).Inv where
  memory := State.memWf_resetWith cfg draws
  faultHalted hf := absurd rfl hf

/-- Settles O12: nothing is listed in memory, and no fault is recorded. -/
theorem resetMeetsInvariant : Obligations.ResetMeetsInvariant := State.inv_resetWith standardConfig 0

/-- A run of bytes written to memory keeps the invariant. -/
theorem State.Inv.writeBytes : ∀ (bs : List Byte) {s : State} (a : Nat), s.Inv → (s.writeBytes a bs).Inv
  | [], _, _, h => h
  | _ :: bs, _, a, h => State.Inv.writeBytes bs (a + 1) ⟨State.memWf_writeByte h.memory _ _, h.faultHalted⟩

/-- INIT establishes the invariant, whatever stood before it. -/
theorem Block.inv_afterInit (cfg : Config) (draws : Nat) (rom : RomImage) :
    (Block.afterInit cfg draws rom).Inv := by
  unfold Block.afterInit
  rcases hinit : initialise cfg draws rom with f | s
  · trivial
  · obtain ⟨bs, _, _, rfl⟩ := initialise_ok hinit
    exact (State.inv_resetWith cfg draws).writeBytes bs 0x200

/-- One event on a machine that has a state. -/
theorem State.react_keeps_inv {s : State} {e : HostEvent} {b : Block} (h : s.Inv)
    (hreact : s.react e = .next b) : b.Inv := by
  cases e with
  | step =>
    rcases hstep : step s with t | f | r
    · rw [State.react, hstep] at hreact
      cases hreact
      exact stepKeepsInvariant s t h hstep
    all_goals rw [State.react, hstep] at hreact; cases hreact
  | tick =>
    cases hreact
    show s.tick.Inv
    rw [State.tick_eq]
    split
    · exact h.of_eq rfl rfl rfl rfl
    · exact h
  | init rom => cases hreact; exact Block.inv_afterInit s.cfg s.draws rom
  | key k b => cases hreact; exact h.of_eq rfl rfl rfl rfl
  | pause =>
    cases hreact
    show s.pause.Inv
    rw [State.pause_eq]
    split
    · next hs => exact h.setStatus (by simp [hs])
    · exact h
  | resume =>
    cases hreact
    show s.resume.Inv
    rw [State.resume_eq]
    split
    · next hs => exact h.setStatus (by simp [hs])
    · exact h
  | halt => cases hreact; exact h.setStatus fun _ => rfl
  | dirtyClr => cases hreact; exact h.of_eq rfl rfl rfl rfl

/-- One event on the block. -/
theorem Block.react_keeps_inv {b b' : Block} {e : HostEvent} (h : b.Inv) (hreact : b.react e = .next b') :
    b'.Inv := by
  cases b with
  | up s => exact State.react_keeps_inv h hreact
  | absent why cfg draws =>
    cases e with
    | init rom => cases hreact; exact Block.inv_afterInit cfg draws rom
    | step | tick | key | pause | resume | halt | dirtyClr => cases hreact; trivial

/-- What every event keeps, every run that does not stop keeps. -/
theorem Block.run_keeps {P : Block → Prop} (hP : ∀ b e b', P b → b.react e = .next b' → P b') :
    ∀ (es : List HostEvent) {b b' : Block}, P b → b.run es = .next b' → P b'
  | [], _, _, h, hrun => by cases hrun; exact h
  | e :: es, b, _, h, hrun => by
    rcases hreact : b.react e with c | f | r
    · rw [Block.run_cons hreact] at hrun
      exact Block.run_keeps hP es (hP b e c h hreact) hrun
    all_goals simp [Block.run, hreact] at hrun

/-- Settles O13: every event keeps the invariant, so every sequence of events does. -/
theorem hostEventsKeepInvariant : Obligations.HostEventsKeepInvariant :=
  fun _ _ es h hrun => Block.run_keeps (fun _ _ _ => Block.react_keeps_inv) es h hrun

/-! ### The framebuffer -/

theorem Instr.writesDisplay_iff {i : Instr} :
    i.writesDisplay = true ↔ (∃ x, i = .cls x) ∨ ∃ x y n, i = .drw x y n := by
  constructor
  · intro h
    cases i
    case cls x => exact .inl ⟨x, rfl⟩
    case drw x y n => exact .inr ⟨x, y, n, rfl⟩
    all_goals cases h
  · rintro (⟨x, rfl⟩ | ⟨x, y, n, rfl⟩) <;> rfl

theorem footprint_fb (s : State) (i : Instr) : (footprint s i).fb = i.writesDisplay := by cases i <;> rfl

theorem footprint_dirty (s : State) (i : Instr) : (footprint s i).dirty = i.writesDisplay := by
  cases i <;> rfl

/-- CLS and DRW set DIRTY (R30). -/
theorem exec_sets_dirty {i : Instr} {s t : State} (hd : i.writesDisplay = true) (h : exec i s = .next t) :
    t.dirty = true := by
  rcases Instr.writesDisplay_iff.mp hd with ⟨x, rfl⟩ | ⟨x, y, n, rfl⟩
  · cases h; rfl
  · obtain ⟨os, rfl⟩ := State.access_next (show execDrw x y n s = _ from h)
    rfl

theorem endStep_fbWe_of_running {t : State} (h : t.status = .running) (a op : Word) (d : Bool) :
    (t.endStep a op d).fbWe = d := by
  rw [State.endStep_running h]

/-- A step that began in Running ends with FB_WE as its instruction says: a body that halts, where endStep puts
0, ran CALL or RET. -/
theorem endStep_fbWe_of_exec {i : Instr} {s t : State} (hs : s.status = .running) (h : exec i s = .next t)
    (a op : Word) : (t.endStep a op i.writesDisplay).fbWe = i.writesDisplay := by
  rcases exec_status h with ⟨hstatus, _⟩ | ⟨nnn, rfl, _, rfl⟩ | ⟨x, rfl, _, rfl⟩
  · exact endStep_fbWe_of_running (hstatus.trans hs) a op _
  · rfl
  · rfl

theorem Preserves.pixel {fp : Footprint} {s t : State} (h : Preserves fp s t) (hfb : fp.fb = false)
    (px py : Nat) : t.pixel px py = s.pixel px py := by
  simp only [State.pixel, h.fb hfb]

/-- Settles O17: a decoded word by the footprint of its instruction, an unknown word since it writes nothing. -/
theorem onlyDisplayStepsWriteFramebuffer : Obligations.OnlyDisplayStepsWriteFramebuffer := by
  intro s t hs hstep
  rcases step_cases hstep with ⟨hn, _⟩ | ⟨_, _, ⟨i, u, hcur, hexec, rfl⟩ | ⟨e, hcur, rfl⟩⟩
  · exact absurd hs hn
  · have hend := Preserves.endStep u s.pc s.fetchWord i.writesDisplay
    have hbody := exec_preserves hexec
    have hwe := endStep_fbWe_of_exec (s := s.entered) hs hexec s.pc s.fetchWord
    rw [hwe, hcur]
    simp only [Except.ok.injEq]
    refine ⟨Instr.writesDisplay_iff, fun hd => (hend.dirty rfl).trans (exec_sets_dirty hd hexec), fun hd => ?_⟩
    exact ⟨(hend.dirty rfl).trans (hbody.dirty ((footprint_dirty _ i).trans hd)),
      fun px py => (hend.pixel rfl px py).trans (hbody.pixel ((footprint_fb _ i).trans hd) px py)⟩
  · have hend := Preserves.endStep (s.entered.unknownOpcode s.fetchWord) s.pc s.fetchWord false
    have hwe := endStep_fbWe_of_running (t := s.entered.unknownOpcode s.fetchWord) hs s.pc s.fetchWord false
    rw [hwe, hcur]
    exact ⟨by simp, nofun, fun _ => ⟨hend.dirty rfl, hend.pixel rfl⟩⟩

/-! ### Which instructions write which piece of state -/

/-- The registers in an instruction's footprint are those 10_state.md R20 and R21 list for it. -/
theorem mayWriteV_of_mem_footprint {i : Instr} {s : State} {k : Nibble} (h : k ∈ (footprint s i).v) :
    mayWriteV (s.cfg.logicVF == .cleared) k i = true := by
  cases i
  case ldRegs x =>
    obtain ⟨j, hj, rfl⟩ := List.mem_map.mp h
    have hj := List.mem_range.mp hj
    have := Nat.mod_le j 16
    simp only [mayWriteV, BitVec.toNat_ofNat, decide_eq_true_eq]
    omega
  case orReg | andReg | xorReg => cases hvf : s.cfg.logicVF <;> simpa [footprint, mayWriteV, hvf] using h
  case ldImm | addImm | rnd | ldReg | ldVxDt | ldVxK => simpa [footprint, mayWriteV] using h
  case addReg | sub | subn | shr | shl | drw => simpa [footprint, mayWriteV] using h
  all_goals cases h

/-- Settles O19: a register that differs is in the footprint. -/
theorem registersChangeOnlyAsListed : Obligations.RegistersChangeOnlyAsListed := by
  intro i s t h k hne
  have hmem : k ∈ (footprint s i).v := by
    by_contra hk
    exact hne ((exec_preserves h).v k hk)
  exact mayWriteV_of_mem_footprint hmem

section
variable {i : Instr} {s : State}

theorem Instr.of_footprint_i (h : (footprint s i).i = true) :
    (∃ nnn, i = .ldI nnn) ∨ (∃ x, i = .addI x) ∨ (∃ x, i = .ldF x) ∨
      (s.cfg.ldstIncI = true ∧ ((∃ x, i = .stRegs x) ∨ ∃ x, i = .ldRegs x)) := by
  cases i
  case ldI nnn => exact .inl ⟨nnn, rfl⟩
  case addI x => exact .inr (.inl ⟨x, rfl⟩)
  case ldF x => exact .inr (.inr (.inl ⟨x, rfl⟩))
  case stRegs x => exact .inr (.inr (.inr ⟨h, .inl ⟨x, rfl⟩⟩))
  case ldRegs x => exact .inr (.inr (.inr ⟨h, .inr ⟨x, rfl⟩⟩))
  all_goals cases h

theorem Instr.of_footprint_stack (h : (footprint s i).stack = true) : ∃ nnn, i = .call nnn := by
  cases i
  case call nnn => exact ⟨nnn, rfl⟩
  all_goals cases h

theorem Instr.of_footprint_sp (h : (footprint s i).sp = true) : (∃ nnn, i = .call nnn) ∨ ∃ x, i = .ret x := by
  cases i
  case call nnn => exact .inl ⟨nnn, rfl⟩
  case ret x => exact .inr ⟨x, rfl⟩
  all_goals cases h

theorem Instr.of_footprint_dt (h : (footprint s i).dt = true) : ∃ x, i = .ldDtVx x := by
  cases i
  case ldDtVx x => exact ⟨x, rfl⟩
  all_goals cases h

theorem Instr.of_footprint_st (h : (footprint s i).st = true) : ∃ x, i = .ldStVx x := by
  cases i
  case ldStVx x => exact ⟨x, rfl⟩
  all_goals cases h

theorem Instr.of_footprint_draws (h : (footprint s i).draws = true) : ∃ x nn, i = .rnd x nn := by
  cases i
  case rnd x nn => exact ⟨x, nn, rfl⟩
  all_goals cases h

/-- The stack faults write FAULT and STATUS, so the instructions that may write them are those that write SP. -/
theorem footprint_fault : (footprint s i).fault = (footprint s i).sp := by cases i <;> rfl

theorem footprint_status : (footprint s i).status = (footprint s i).sp := by cases i <;> rfl

theorem footprint_keys : (footprint s i).keys = false := by cases i <;> rfl

theorem footprint_fbWe : (footprint s i).fbWe = false := by cases i <;> rfl

end

/-- What differs is marked: the contrapositive of a clause of `Preserves`. -/
theorem marked_of_ne {α : Type} {b : Bool} {x y : α} (h : b = false → x = y) (hne : x ≠ y) : b = true := by
  cases b
  · exact absurd (h rfl) hne
  · rfl

/-- Settles O20: a piece of state that differs is marked in the footprint. -/
theorem privateStateHasFewWriters : Obligations.PrivateStateHasFewWriters := by
  intro i s t h
  have hp := exec_preserves h
  refine ⟨fun hne => Instr.of_footprint_i (marked_of_ne hp.i hne),
    fun hne => Instr.of_footprint_stack (marked_of_ne hp.stack hne),
    fun hne => Instr.of_footprint_sp (marked_of_ne hp.sp hne),
    fun hne => Instr.of_footprint_dt (marked_of_ne hp.dt hne),
    fun hne => Instr.of_footprint_st (marked_of_ne hp.st hne), ?display, ?halt,
    fun hne => Instr.of_footprint_draws (marked_of_ne hp.draws hne),
    hp.keys footprint_keys, hp.fbWe footprint_fbWe, hp.cfg⟩
  case display =>
    rintro (hne | hne)
    · exact (footprint_fb s i).symm.trans (marked_of_ne hp.fb hne)
    · exact (footprint_dirty s i).symm.trans (marked_of_ne hp.dirty hne)
  case halt =>
    rintro (hne | hne)
    · exact Instr.of_footprint_sp (footprint_fault.symm.trans (marked_of_ne hp.fault hne))
    · exact Instr.of_footprint_sp (footprint_status.symm.trans (marked_of_ne hp.status hne))

end Sys2Proof.Machine
end

section
/-! PROOFS. Memory (20_memory.md): the canonical form names one list per contents, a write and its frame, the
word of the fetch, and which bytes an instruction may store. -/

namespace Sys2Proof.Machine

/-! ### Canonical memories that read alike are equal -/

@[simp] theorem Memory.read_cons_same (font : Vector Byte 80) (a : Nat) (v : Byte) (m : Memory) :
    Memory.read font ((a, v) :: m) a = v := if_pos rfl

theorem Memory.read_cons_of_ne (font : Vector Byte 80) {a q : Nat} (h : q ≠ a) (v : Byte) (m : Memory) :
    Memory.read font ((a, v) :: m) q = Memory.read font m q := if_neg h

/-- The first listed address tells a canonical memory from one that lists only higher addresses. -/
theorem Memory.read_head_ne {font lo a v m m'} (h : Memory.wfFrom font lo ((a, v) :: m) = true)
    (h' : Memory.wfFrom font (a + 1) m' = true) :
    Memory.read font ((a, v) :: m) a ≠ Memory.read font m' a := by
  obtain ⟨_, _, hv, _⟩ := Memory.wfFrom_cons.mp h
  rwa [Memory.read_cons_same, Memory.read_below h' (Nat.lt_succ_self a)]

theorem Memory.ext_read {font} : ∀ {m m' : Memory} {lo lo' : Nat}, Memory.wfFrom font lo m = true →
    Memory.wfFrom font lo' m' = true →
    (∀ a < 4096, Memory.read font m a = Memory.read font m' a) → m = m'
  | [], [], _, _, _, _, _ => rfl
  | [], (b, w) :: m', _, _, _, h', hread => by
    obtain ⟨_, hb, _, _⟩ := Memory.wfFrom_cons.mp h'
    exact absurd (hread b hb).symm (Memory.read_head_ne h' rfl)
  | (a, v) :: m, [], _, _, h, _, hread => by
    obtain ⟨_, ha, _, _⟩ := Memory.wfFrom_cons.mp h
    exact absurd (hread a ha) (Memory.read_head_ne h rfl)
  | (a, v) :: m, (b, w) :: m', _, _, h, h', hread => by
    obtain ⟨_, ha, hv, hm⟩ := Memory.wfFrom_cons.mp h
    obtain ⟨_, hb, hw, hm'⟩ := Memory.wfFrom_cons.mp h'
    rcases lt_trichotomy a b with hab | rfl | hba
    · have habove := Memory.wfFrom_cons.mpr ⟨hab, hb, hw, hm'⟩
      exact absurd (hread a ha) (Memory.read_head_ne h habove)
    · have hvw : v = w := by simpa using hread a ha
      have htail : m = m' := Memory.ext_read hm hm' fun q hq => by
        by_cases hqa : q < a + 1
        · rw [Memory.read_below hm hqa, Memory.read_below hm' hqa]
        · have hne : q ≠ a := by omega
          simpa only [Memory.read_cons_of_ne font hne] using hread q hq
      rw [hvw, htail]
    · have habove := Memory.wfFrom_cons.mpr ⟨hba, ha, hv, hm⟩
      exact absurd (hread b hb).symm (Memory.read_head_ne h' habove)

/-- Settles O23: a write keeps the form, and the form determines the list from its reads. -/
theorem memoryFormIsCanonical : Obligations.MemoryFormIsCanonical := fun _ _ _ h h' =>
  ⟨fun _ ha _ => Memory.wfFrom_write_zero h ha, Memory.ext_read h h'⟩

/-! ### A write -/

/-- A second write of the same byte leaves a memory in the same form that reads alike: the same list. -/
theorem Memory.write_write_same {font} {m : Memory} (h : Memory.wf font m = true) {a : Nat} (ha : a < 4096)
    (v : Byte) : Memory.write font (Memory.write font m a v) a v = Memory.write font m a v := by
  have hwrite : Memory.wf font (Memory.write font m a v) = true := Memory.wfFrom_write_zero h ha
  refine Memory.ext_read (Memory.wfFrom_write_zero hwrite ha) hwrite fun q _ => ?_
  rw [Memory.read_write hwrite, Memory.read_write h]
  split <;> rfl

theorem State.writeByte_writeByte_same {s : State} (h : s.memWf) (a : Addr) (b : Byte) :
    (s.writeByte a b).writeByte a b = s.writeByte a b :=
  congrArg (fun m => { s with mem := m }) (Memory.write_write_same h a.isLt b)

theorem Preserves.writeByte (s : State) (a : Addr) (b : Byte) :
    Preserves { stored := [a] } s (s.writeByte a b) := by
  constructor
  case mem => exact fun q hq => State.readByte_writeByte_of_ne s (List.ne_of_not_mem_cons hq) b
  all_goals intros; rfl

/-- Settles O22: the laws of one write. -/
theorem writeChangesOnlyItsByte : Obligations.WriteChangesOnlyItsByte := fun s a b h =>
  ⟨by rw [State.readByte_writeByte h, if_pos rfl], Preserves.writeByte s a b,
    State.writeByte_writeByte_same h a b⟩

/-! ### The fetch -/

/-- The fetched word is big-endian: the byte at the lower address is the high byte (R65). -/
theorem State.toNat_fetchWord (s : State) :
    s.fetchWord.toNat = 256 * (s.readByte (BitVec.ofNat 12 (s.pc.toNat % 4096))).toNat
      + (s.readByte (BitVec.ofNat 12 ((s.pc.toNat + 1) % 4096))).toNat := by
  rw [State.fetchWord, fetchAddr_add_one, fetchAddr_eq, toNat_bigEndian, Nat.mul_comm]

/-- Settles O6: under P_OOB = mask the fetch is never stopped, and it presents its event alone. -/
theorem fetchReadsBigEndianWord : Obligations.FetchReadsBigEndianWord := fun s hoob =>
  ⟨s.fetchWord, s.emit s.pcEvents, State.fetch_ok (.inl hoob), State.toNat_fetchWord s, rfl,
    Preserves.emit s s.pcEvents⟩

/-! ### The bytes an instruction stores -/

/-- The bytes in an instruction's footprint are those 20_memory.md R61 lists for it. -/
theorem footprint_stored (s : State) (i : Instr) :
    (footprint s i).stored = (List.range (storeCount i)).map s.addrAtI := by cases i <;> rfl

/-- Settles O18: a byte that reads differently is in the footprint. -/
theorem onlyStoresWriteMemory : Obligations.OnlyStoresWriteMemory := by
  intro i s t h a hne
  have hmem : a ∈ (footprint s i).stored := by
    by_contra ha
    exact hne ((exec_preserves h).mem a ha)
  rw [footprint_stored] at hmem
  obtain ⟨k, hk, rfl⟩ := List.mem_map.mp hmem
  exact ⟨k, List.mem_range.mp hk, rfl⟩

/-- FX55 stores V[k] at EA(I + k), for every k up to X (43_index_memory.md R181). -/
theorem readByte_addrAtI_of_exec_stRegs {x : Nibble} {s t : State} {k : Nat} (hw : s.memWf)
    (h : exec (.stRegs x) s = .next t) (hk : k ≤ x.toNat) :
    t.readByte (s.addrAtI k) = s.readV (BitVec.ofNat 4 k) := by
  obtain ⟨os, rfl⟩ := State.access_next (show execStRegs x s = _ from h)
  have hx := x.isLt
  have hlen : ((s.emit os).regs (x.toNat + 1)).length = x.toNat + 1 := by simp [State.regs]
  rw [(Preserves.advanceI _ x).mem _ List.not_mem_nil, State.addrAtI_eq, State.iRel]
  refine (State.readByte_storeFrom _ (s.emit os) s.i.toNat k (by omega) hw (by omega)).trans ?_
  simp [State.regs]

/-- Settles O43: V0 and V1 stand at EA(I) and EA(I + 1), where the fetch with PC = I reads its two bytes. -/
theorem storedWordIsFetched : Obligations.StoredWordIsFetched := by
  intro x s t hw hx h
  have hhigh : t.readByte (s.addrAtI 0) = s.readV 0x0#4 := readByte_addrAtI_of_exec_stRegs hw h (Nat.zero_le _)
  have hlow : t.readByte (s.addrAtI 1) = s.readV 0x1#4 := readByte_addrAtI_of_exec_stRegs hw h hx
  rw [← hhigh, ← hlow]
  exact State.toNat_fetchWord (t.setPc s.i)

end Sys2Proof.Machine
end

section
/-! PROOFS. The decoder and the encoder (30_encoding.md): they invert each other on the well-formed instructions, and
the words that decode to none are those of R88. -/

namespace Sys2Proof

section
variable {strict : Bool} {w : Word} {i : Instr}

/-! ### Decoding an encoded word -/

/-- The family picks the branch, and in a family of several rows the low nibble or the low byte picks the row. -/
theorem decodeWord_encode (hwf : i.wf strict = true) : decodeWord strict (encode i) = .ok i := by
  cases i
  case cls | ret => simp [encode, decodeWord, decodeFamily0]
  case sys nnn =>
    obtain ⟨hcls, hret⟩ : nnn.extractLsb' 0 8 ≠ 0xE0#8 ∧ nnn.extractLsb' 0 8 ≠ 0xEE#8 := by
      simpa [Instr.wf, sysLowByteFree] using hwf
    simp [encode, decodeWord, decodeFamily0, hcls, hret]
  case seReg x y n | sneReg x y n =>
    have hn : strict = true → n = 0x0#4 := by
      simpa [Instr.wf, strictNibbleZero, or_iff_not_imp_left] using hwf
    simpa [encode, decodeWord, decodeSkipReg] using hn
  case ldReg | orReg | andReg | xorReg | addReg | sub | shr | subn | shl =>
    simp [encode, decodeWord, decodeFamily8]
  case skp | sknp => simp [encode, decodeWord, decodeFamilyE]
  case ldVxDt | ldVxK | ldDtVx | ldStVx | addI | ldF | ldB | stRegs | ldRegs =>
    simp [encode, decodeWord, decodeFamilyF]
  case jp | call | seImm | sneImm | ldImm | addImm | ldI | jpV0 | rnd | drw => simp [encode, decodeWord]

/-- The same from the two bytes; what follows them is not read (R80). -/
theorem decodeBytes_encodeBytes_append (hwf : i.wf strict = true) (rest : List Byte) :
    decodeBytes strict (encodeBytes i ++ rest) = .ok (i, rest) := by
  simp only [encodeBytes, List.cons_append, List.nil_append, decodeBytes, bigEndian_bytes,
    decodeWord_encode hwf]

/-! ### Encoding a decoded word -/

theorem formRegReg_of_fieldF {f : Nibble} (hf : fieldF w = f) :
    formRegReg f (fieldX w) (fieldY w) (fieldN w) = w := hf ▸ formRegReg_fields w

theorem formRegReg_of_fieldF_fieldN {f n : Nibble} (hf : fieldF w = f) (hn : fieldN w = n) :
    formRegReg f (fieldX w) (fieldY w) n = w := hn ▸ formRegReg_of_fieldF hf

theorem formRegImm_of_fieldF {f : Nibble} (hf : fieldF w = f) :
    formRegImm f (fieldX w) (fieldNN w) = w := hf ▸ formRegImm_fields w

theorem formRegImm_of_fieldF_fieldNN {f : Nibble} {b : Byte} (hf : fieldF w = f) (hb : fieldNN w = b) :
    formRegImm f (fieldX w) b = w := hb ▸ formRegImm_of_fieldF hf

theorem formAddr_of_fieldF {f : Nibble} (hf : fieldF w = f) : formAddr f (fieldNNN w) = w :=
  hf ▸ formAddr_fields w

/-- The word is that of the instruction, which is well-formed. -/
def Instr.StandsFor (strict : Bool) (i : Instr) (w : Word) : Prop := i.wf strict = true ∧ encode i = w

/-- A family-0 word is SYS only where its low byte is neither E0 nor EE (R85). -/
theorem decodeFamily0_standsFor (hf : fieldF w = 0x0#4) : (decodeFamily0 w).StandsFor strict w := by
  unfold decodeFamily0
  split
  next hcls => exact ⟨rfl, formRegImm_of_fieldF_fieldNN hf hcls⟩
  next hcls =>
    split
    next hret => exact ⟨rfl, formRegImm_of_fieldF_fieldNN hf hret⟩
    next hret =>
      have hwf : sysLowByteFree (fieldNNN w) = true := by
        simp [sysLowByteFree, fieldNNN_low, hcls, hret]
      exact ⟨hwf, formAddr_of_fieldF hf⟩

/-- A family-5 or family-9 word decodes under P_STRICT_5_9 only with n = 0 (R86). -/
theorem strictNibbleZero_of_decodeSkipReg {j : Instr} (h : decodeSkipReg strict w i = .ok j) :
    i = j ∧ strictNibbleZero strict (fieldN w) = true := by
  unfold decodeSkipReg at h
  split at h
  next => cases h
  next hn => exact ⟨Except.ok.inj h, by simpa [strictNibbleZero, or_iff_not_imp_left] using hn⟩

theorem decodeFamily8_standsFor (hf : fieldF w = 0x8#4) (h : decodeFamily8 w = .ok i) :
    i.StandsFor strict w := by
  unfold decodeFamily8 at h
  repeat' split at h
  all_goals cases h
  all_goals exact ⟨rfl, formRegReg_of_fieldF_fieldN hf ‹_›⟩

theorem decodeFamilyE_standsFor (hf : fieldF w = 0xE#4) (h : decodeFamilyE w = .ok i) :
    i.StandsFor strict w := by
  unfold decodeFamilyE at h
  repeat' split at h
  all_goals cases h
  all_goals exact ⟨rfl, formRegImm_of_fieldF_fieldNN hf ‹_›⟩

theorem decodeFamilyF_standsFor (hf : fieldF w = 0xF#4) (h : decodeFamilyF w = .ok i) :
    i.StandsFor strict w := by
  unfold decodeFamilyF at h
  repeat' split at h
  all_goals cases h
  all_goals exact ⟨rfl, formRegImm_of_fieldF_fieldNN hf ‹_›⟩

/-- The first level of dispatch (R84): the sixteen families, with what a word of each decodes to. -/
inductive DispatchesTo (strict : Bool) (w : Word) : Except DecodeError Instr → Prop
  | family0 (hf : fieldF w = 0x0#4) : DispatchesTo strict w (.ok (decodeFamily0 w))
  | family1 (hf : fieldF w = 0x1#4) : DispatchesTo strict w (.ok (.jp (fieldNNN w)))
  | family2 (hf : fieldF w = 0x2#4) : DispatchesTo strict w (.ok (.call (fieldNNN w)))
  | family3 (hf : fieldF w = 0x3#4) : DispatchesTo strict w (.ok (.seImm (fieldX w) (fieldNN w)))
  | family4 (hf : fieldF w = 0x4#4) : DispatchesTo strict w (.ok (.sneImm (fieldX w) (fieldNN w)))
  | family5 (hf : fieldF w = 0x5#4) :
      DispatchesTo strict w (decodeSkipReg strict w (.seReg (fieldX w) (fieldY w) (fieldN w)))
  | family6 (hf : fieldF w = 0x6#4) : DispatchesTo strict w (.ok (.ldImm (fieldX w) (fieldNN w)))
  | family7 (hf : fieldF w = 0x7#4) : DispatchesTo strict w (.ok (.addImm (fieldX w) (fieldNN w)))
  | family8 (hf : fieldF w = 0x8#4) : DispatchesTo strict w (decodeFamily8 w)
  | family9 (hf : fieldF w = 0x9#4) :
      DispatchesTo strict w (decodeSkipReg strict w (.sneReg (fieldX w) (fieldY w) (fieldN w)))
  | familyA (hf : fieldF w = 0xA#4) : DispatchesTo strict w (.ok (.ldI (fieldNNN w)))
  | familyB (hf : fieldF w = 0xB#4) : DispatchesTo strict w (.ok (.jpV0 (fieldNNN w)))
  | familyC (hf : fieldF w = 0xC#4) : DispatchesTo strict w (.ok (.rnd (fieldX w) (fieldNN w)))
  | familyD (hf : fieldF w = 0xD#4) : DispatchesTo strict w (.ok (.drw (fieldX w) (fieldY w) (fieldN w)))
  | familyE (hf : fieldF w = 0xE#4) : DispatchesTo strict w (decodeFamilyE w)
  | familyF (hf : fieldF w = 0xF#4) : DispatchesTo strict w (decodeFamilyF w)

theorem decodeWord_dispatchesTo (strict : Bool) (w : Word) : DispatchesTo strict w (decodeWord strict w) := by
  unfold decodeWord
  split
  case h_16 =>
    have hf : (fieldF w).toNat = 15 := by
      have hlt := (fieldF w).isLt
      simp only [imp_false] at *
      omega
    exact .familyF (BitVec.eq_of_toNat_eq hf)
  all_goals
    constructor
    exact BitVec.eq_of_toNat_eq ‹_›

theorem DispatchesTo.standsFor {r : Except DecodeError Instr} (h : DispatchesTo strict w r) (hr : r = .ok i) :
    i.StandsFor strict w := by
  cases h
  case family0 hf => cases hr; exact decodeFamily0_standsFor hf
  case family8 hf => exact decodeFamily8_standsFor hf hr
  case familyE hf => exact decodeFamilyE_standsFor hf hr
  case familyF hf => exact decodeFamilyF_standsFor hf hr
  case family5 hf | family9 hf =>
    obtain ⟨rfl, hn⟩ := strictNibbleZero_of_decodeSkipReg hr
    exact ⟨hn, formRegReg_of_fieldF hf⟩
  case family1 hf | family2 hf | familyA hf | familyB hf => cases hr; exact ⟨rfl, formAddr_of_fieldF hf⟩
  case family3 hf | family4 hf | family6 hf | family7 hf | familyC hf =>
    cases hr; exact ⟨rfl, formRegImm_of_fieldF hf⟩
  case familyD hf => cases hr; exact ⟨rfl, formRegReg_of_fieldF hf⟩

/-- The decoder and the encoder are inverse: a word decodes to exactly the instruction it stands for. -/
theorem decodeWord_eq_ok_iff : decodeWord strict w = .ok i ↔ i.StandsFor strict w :=
  ⟨(decodeWord_dispatchesTo strict w).standsFor, fun ⟨hwf, hw⟩ => hw ▸ decodeWord_encode hwf⟩

end

/-- Settles O1: by cases on the instruction, the fields of its word being those it was built from. -/
theorem decodeOfEncodeIsIdentity : Obligations.DecodeOfEncodeIsIdentity := fun _ _ hwf =>
  ⟨decodeWord_encode hwf, decodeBytes_encodeBytes_append hwf⟩

/-- Settles O2: by cases on the family and the row, a word being put together again from its fields. -/
theorem encodeOfDecodeIsIdentity : Obligations.EncodeOfDecodeIsIdentity := fun _ _ _ =>
  decodeWord_eq_ok_iff.mp

/-! ### The unknown words -/

section
variable {strict : Bool} {w : Word}

/-- A dispatch fails where the test fails and so does what is tried after it. -/
@[simp] theorem ite_ok_eq_error_iff {ε α : Type} {c : Prop} [Decidable c] {a : α} {x : Except ε α}
    {e : ε} : (if c then .ok a else x) = .error e ↔ ¬c ∧ x = .error e := by
  split <;> simp [*]

theorem decodeSkipReg_eq_error_iff {i : Instr} : decodeSkipReg strict w i = .error (.unknownOpcode w) ↔
    strict = true ∧ (fieldN w).toNat ≠ 0 := by
  simp [decodeSkipReg, ← BitVec.toNat_inj]

theorem decodeFamily8_eq_error_iff : decodeFamily8 w = .error (.unknownOpcode w) ↔
    (fieldN w).toNat ∈ [8, 9, 10, 11, 12, 13, 15] := by
  have hlt := (fieldN w).isLt
  simp only [decodeFamily8, ite_ok_eq_error_iff, ← BitVec.toNat_inj, BitVec.toNat_ofNat, List.mem_cons,
    List.not_mem_nil, and_true, or_false]
  omega

theorem decodeFamilyE_eq_error_iff : decodeFamilyE w = .error (.unknownOpcode w) ↔
    (fieldNN w).toNat ∉ [0x9E, 0xA1] := by
  simp [decodeFamilyE, ← BitVec.toNat_inj]

theorem decodeFamilyF_eq_error_iff : decodeFamilyF w = .error (.unknownOpcode w) ↔
    (fieldNN w).toNat ∉ [0x07, 0x0A, 0x15, 0x18, 0x1E, 0x29, 0x33, 0x55, 0x65] := by
  simp [decodeFamilyF, ← BitVec.toNat_inj]

theorem DispatchesTo.eq_error_iff {r : Except DecodeError Instr} (h : DispatchesTo strict w r) :
    r = .error (.unknownOpcode w) ↔
      ((fieldF w).toNat = 8 ∧ (fieldN w).toNat ∈ [8, 9, 10, 11, 12, 13, 15]) ∨
      ((fieldF w).toNat = 14 ∧ (fieldNN w).toNat ∉ [0x9E, 0xA1]) ∨
      ((fieldF w).toNat = 15 ∧
        (fieldNN w).toNat ∉ [0x07, 0x0A, 0x15, 0x18, 0x1E, 0x29, 0x33, 0x55, 0x65]) ∨
      (strict = true ∧ ((fieldF w).toNat = 5 ∨ (fieldF w).toNat = 9) ∧ (fieldN w).toNat ≠ 0) := by
  cases h
  case family5 hf | family9 hf => simp [hf, decodeSkipReg_eq_error_iff]
  case family8 hf => simp [hf, decodeFamily8_eq_error_iff]
  case familyE hf => simp [hf, decodeFamilyE_eq_error_iff]
  case familyF hf => simp [hf, decodeFamilyF_eq_error_iff]
  case family0 hf | family1 hf | family2 hf | family3 hf | family4 hf | family6 hf | family7 hf | familyA hf
    | familyB hf | familyC hf | familyD hf => simp [hf]

end

/-- Settles O4: family by family, with the fields as numbers. -/
theorem unknownWordsAreExactlyThese : Obligations.UnknownWordsAreExactlyThese := by
  intro strict w
  have hfamily : (fieldF w).toNat = w.toNat / 4096 := by have := w.isLt; rw [toNat_fieldF]; omega
  rw [← hfamily, ← toNat_fieldN, ← toNat_fieldNN]
  exact (decodeWord_dispatchesTo strict w).eq_error_iff

/-! ### Sample words -/

/-- Settles O5: the decoder runs on the twenty words. -/
theorem sampleWordsDecode : Obligations.SampleWordsDecode := by
  unfold Obligations.SampleWordsDecode
  decide

end Sys2Proof
end

section
/-! PROOFS. The opcode map (30_encoding.md R87): the decoder takes the first row that the word selects, and which
rows overlap. -/

namespace Sys2Proof.Machine

/-! ### Decoding by the rows of a map -/

/-- The instruction of the first row that the word selects. -/
def decodeByRows (rows : List MapRow) (w : Word) : Except DecodeError Instr :=
  match rows.find? (fun r => r.selects w) with
  | some r => .ok (r.instr w)
  | none => .error (.unknownOpcode w)

section
variable (w : Word)

@[simp] theorem decodeByRows_nil : decodeByRows [] w = .error (.unknownOpcode w) := rfl

@[simp] theorem decodeByRows_cons (r : MapRow) (rows : List MapRow) :
    decodeByRows (r :: rows) w = if r.selects w = true then .ok (r.instr w) else decodeByRows rows w := by
  unfold decodeByRows
  rw [List.find?_cons]
  cases r.selects w <;> rfl

@[simp] theorem fieldF_ofNat (n : Nat) : fieldF (BitVec.ofNat 16 n) = BitVec.ofNat 4 (n / 4096) :=
  BitVec.eq_of_toNat_eq (by rw [toNat_fieldF, BitVec.toNat_ofNat, BitVec.toNat_ofNat]; omega)

@[simp] theorem fieldN_ofNat (n : Nat) : fieldN (BitVec.ofNat 16 n) = BitVec.ofNat 4 n :=
  BitVec.eq_of_toNat_eq (by rw [toNat_fieldN, BitVec.toNat_ofNat, BitVec.toNat_ofNat]; omega)

@[simp] theorem fieldNN_ofNat (n : Nat) : fieldNN (BitVec.ofNat 16 n) = BitVec.ofNat 8 n :=
  BitVec.eq_of_toNat_eq (by rw [toNat_fieldNN, BitVec.toNat_ofNat, BitVec.toNat_ofNat]; omega)

/-! For each mask of the map, the fields that a row examines. A row's pattern lies under its mask. -/

variable (g : Word → Instr) {p : Word}

@[simp] theorem selects_F000_iff (hp : p &&& 0xF000#16 = p) :
    (MapRow.mk p 0xF000#16 g).selects w = true ↔ fieldF w = fieldF p := by
  have hpattern : p = formRegReg (fieldF p) 0 0 0 := hp.symm.trans ((and_F000_eq_iff p _).mpr rfl)
  rw [← and_F000_eq_iff, ← hpattern]
  exact beq_iff_eq

@[simp] theorem selects_F00F_iff (hp : p &&& 0xF00F#16 = p) :
    (MapRow.mk p 0xF00F#16 g).selects w = true ↔ fieldF w = fieldF p ∧ fieldN w = fieldN p := by
  have hpattern : p = formRegReg (fieldF p) 0 0 (fieldN p) :=
    hp.symm.trans ((and_F00F_eq_iff p _ _).mpr ⟨rfl, rfl⟩)
  rw [← and_F00F_eq_iff, ← hpattern]
  exact beq_iff_eq

@[simp] theorem selects_F0FF_iff (hp : p &&& 0xF0FF#16 = p) :
    (MapRow.mk p 0xF0FF#16 g).selects w = true ↔ fieldF w = fieldF p ∧ fieldNN w = fieldNN p := by
  have hpattern : p = formRegImm (fieldF p) 0 (fieldNN p) :=
    hp.symm.trans ((and_F0FF_eq_iff p _ _).mpr ⟨rfl, rfl⟩)
  rw [← and_F0FF_eq_iff, ← hpattern]
  exact beq_iff_eq

end

/-- In each family only the rows of that family are left, in the order in which the decoder tries them. -/
theorem eq_decodeByRows_of_dispatchesTo {w : Word} {r : Except DecodeError Instr} (h : DispatchesTo false w r) :
    r = decodeByRows opcodeMap w := by
  unfold opcodeMap opcodeMapTop opcodeMapMiddle opcodeMapBottom
  cases h
  case family0 hf => simp [hf, decodeFamily0, apply_ite Except.ok, fieldX, fieldNNN]
  case family5 hf | family9 hf => simp [hf, decodeSkipReg, fieldX, fieldY, fieldN]
  case family8 hf => simp [hf, decodeFamily8, fieldX, fieldY]
  case familyE hf => simp [hf, decodeFamilyE, fieldX]
  case familyF hf => simp [hf, decodeFamilyF, fieldX]
  case family1 hf | family2 hf | familyA hf | familyB hf => simp [hf, fieldNNN]
  case family3 hf | family4 hf | family6 hf | family7 hf | familyC hf => simp [hf, fieldX, fieldNN]
  case familyD hf => simp [hf, fieldX, fieldY, fieldN]

/-! ### Rows that overlap -/

/-- Two rows agree on the bits that both examine. -/
abbrev MapRow.Compatible (r r' : MapRow) : Prop := r.pattern &&& r'.mask = r'.pattern &&& r.mask

theorem MapRow.compatible_of_selects {r r' : MapRow} {w : Word} (h : r.selects w = true)
    (h' : r'.selects w = true) : r.Compatible r' := by
  have hr : w &&& r.mask = r.pattern := beq_iff_eq.mp h
  have hr' : w &&& r'.mask = r'.pattern := beq_iff_eq.mp h'
  rw [MapRow.Compatible, ← hr, ← hr', BitVec.and_assoc, BitVec.and_assoc, BitVec.and_comm r.mask]

/-- A check of the 595 pairs of rows. -/
theorem opcodeMap_compatible : ∀ j k : Fin opcodeMap.length, j < k →
    opcodeMap[j].Compatible opcodeMap[k] → (j.val = 0 ∨ j.val = 1) ∧ k.val = 2 := by
  decide

/-- Settles O3: the decoder family by family against the rows, and the overlaps by what two rows both examine. -/
theorem decodingFollowsOpcodeMap : Obligations.DecodingFollowsOpcodeMap :=
  ⟨rfl, fun w => eq_decodeByRows_of_dispatchesTo (decodeWord_dispatchesTo false w),
    fun _ j k hj hk hlt hselj hselk =>
      opcodeMap_compatible ⟨j, hj⟩ ⟨k, hk⟩ hlt (MapRow.compatible_of_selects hselj hselk)⟩

end Sys2Proof.Machine
end

section
/-! PROOFS. The cycle (40_cycle.md R100 to R106): a step runs the instruction at PC and ends with its word, an unknown
word and a SYS word run as the same reported no-op, and STATUS gates STEP. -/

namespace Sys2Proof.Machine

/-- The word at PC is the word of the current instruction. -/
theorem State.fetchWord_eq_encode {s : State} {i : Instr} (hc : s.current = .ok i) : s.fetchWord = encode i := by
  rw [State.current_eq] at hc
  obtain ⟨_, hw⟩ := decodeWord_eq_ok_iff.mp hc
  exact hw.symm

/-- `step_decoded`, with the word of the instruction in the place of the fetched one. -/
theorem step_current {s : State} {i : Instr} (hr : s.status = .running) (hf : s.fetchOk) (hc : s.current = .ok i) :
    step s = retire s.pc (encode i) i.writesDisplay (exec i s.entered) := by
  rw [step_decoded hr hf hc, State.fetchWord_eq_encode hc]

/-- Settles O7: by the outcome of the body, and for a next state by its STATUS and the trace toggle. -/
theorem stepRunsDecodedInstruction : Obligations.StepRunsDecodedInstruction := by
  intro s i hr hf hc e he
  obtain rfl : e = s.entered := he
  rw [step_current hr hf hc]
  refine ⟨fun t hexec hrun htrace => ?_, fun t hexec hrun htrace => ?_, fun t hexec hstop => ?_,
    fun f hexec => ?_⟩ <;> rw [hexec, retire]
  · rw [State.endStep_running hrun, if_pos htrace]
  · rw [State.endStep_running hrun, htrace, if_neg Bool.false_ne_true, List.append_nil]
  · rw [State.endStep_stopped hstop]

/-! ### The reported no-op -/

@[simp] theorem State.entered_instrAddr (s : State) : s.entered.instrAddr = s.pc :=
  BitVec.add_sub_cancel s.pc 2

/-- An unknown word runs as the no-op of R106, and SYS as the same (R122). -/
theorem step_unknown_or_sys {s : State} {w : Word} (hr : s.status = .running) (hf : s.fetchOk)
    (hc : s.current = .error (.unknownOpcode w) ∨ ∃ nnn, s.current = .ok (.sys nnn) ∧ w = encode (.sys nnn)) :
    step s = .next ((s.entered.unknownOpcode w).endStep s.pc w false) := by
  rcases hc with hc | ⟨nnn, hc, rfl⟩
  · have hw : DecodeError.unknownOpcode w = .unknownOpcode s.fetchWord :=
      decodeWord_error _ (s.current_eq.symm.trans hc)
    cases hw
    exact step_unknown hr hf hc
  · exact step_current hr hf hc

theorem Preserves.unknownOpcode (s : State) (w : Word) : Preserves { events := true } s (s.unknownOpcode w) :=
  Preserves.emit s _

/-- Settles O8: entering the body moves PC, and the report and the end of the step touch the outputs alone. -/
theorem unknownWordIsReportedNoOp : Obligations.UnknownWordIsReportedNoOp := by
  intro s w hr hf hc
  have hrun : (s.entered.unknownOpcode w).status = .running := hr
  have hframe : Preserves { pc := true, events := true, fbWe := true } s
      ((s.entered.unknownOpcode w).endStep s.pc w false) :=
    ((Preserves.entered s).weaken { }).trans
      (((Preserves.unknownOpcode _ w).weaken { }).trans ((Preserves.endStep _ _ _ _).weaken { }))
  refine ⟨_, step_unknown_or_sys hr hf hc, ?_, ?_, ?_, hframe⟩ <;> rw [State.endStep_running hrun]
  · exact BitVec.toNat_add s.pc 2
  · simp [State.unknownOpcode]

/-! ### The gate -/

/-- Settles O9: neither status is Running. -/
theorem statusGatesStep : Obligations.StatusGatesStep := by
  rintro s (hpaused | hhalted)
  · exact step_not_running (by simp [hpaused])
  · exact step_not_running (by simp [hhalted])

end Sys2Proof.Machine
end

section
/-! PROOFS. Control flow (41_control_flow.md): CALL, RET and their stack faults, SYS, the jumps and the skips. -/

namespace Sys2Proof.Machine

/-! ### CALL and RET -/

section
variable {s : State}

/-- CALL with room on the stack (R124). -/
theorem exec_call_of_lt (nnn : Addr) (h : s.sp.val < 12) :
    exec (.call nnn) s = .next ((s.push s.pc h).setPc (nnn.setWidth 16)) := dif_pos h

/-- CALL on a full stack (R124). -/
theorem exec_call_full (nnn : Addr) (h : s.sp.val = 12) :
    exec (.call nnn) s = .next (s.raiseFault .stackOverflow (encode (.call nnn))) :=
  dif_neg (Nat.not_lt.mpr h.ge)

/-- RET with an entry on the stack (R121). -/
theorem exec_ret_of_pos (x : Nibble) (h : 0 < s.sp.val) : exec (.ret x) s = .next (s.popToPc h) := dif_pos h

/-- RET on an empty stack (R121). -/
theorem exec_ret_empty (x : Nibble) (h : s.sp.val = 0) :
    exec (.ret x) s = .next (s.raiseFault .stackUnderflow (encode (.ret x))) :=
  dif_neg (Nat.not_lt.mpr h.le)

end

/-- Settles O24: with an entry the pop, without one the fault. -/
theorem retPopsOrUnderflows : Obligations.RetPopsOrUnderflows := fun x s =>
  ⟨fun _ => decodeWord_encode (i := .ret x) rfl,
    fun h => ⟨_, exec_ret_of_pos x h, rfl, rfl, Preserves.popToPc s h⟩,
    fun h => ⟨_, exec_ret_empty x h, rfl, rfl, rfl, rfl, rfl, rfl, Preserves.raiseFault s _ _⟩⟩

theorem toNat_setWidth_addr (nnn : Addr) : (nnn.setWidth 16).toNat = nnn.toNat :=
  BitVec.toNat_setWidth_of_le (by decide)

/-- Of STACK a push writes only the entry at SP (10_state.md R25, R26). -/
theorem State.getElem_push_stack {s : State} (w : Word) (h : s.sp.val < 12) {k : Nat} (hk : k < 12) :
    (s.push w h).stack[k] = if k = s.sp.val then w else s.stack[k] := by
  simp only [State.push_stack, Vector.getElem_set, eq_comm]

theorem Preserves.call {s : State} (nnn : Addr) (h : s.sp.val < 12) :
    Preserves { stack := true, sp := true, pc := true } s ((s.push s.pc h).setPc (nnn.setWidth 16)) :=
  ((Preserves.push s s.pc h).weaken { }).trans ((Preserves.setPc _ _).weaken { })

/-- Settles O25: with room the push and the jump, without it the fault. -/
theorem callPushesOrOverflows : Obligations.CallPushesOrOverflows := fun nnn s =>
  ⟨fun _ => decodeWord_encode (i := .call nnn) rfl,
    fun h => ⟨_, exec_call_of_lt nnn h, rfl, toNat_setWidth_addr nnn, fun _ => State.getElem_push_stack s.pc h,
      Preserves.call nnn h⟩,
    fun h => ⟨_, exec_call_full nnn h, rfl, rfl, rfl, rfl, rfl, rfl, Preserves.raiseFault s _ _⟩⟩

/-! ### A CALL, then a RET at its target -/

section
variable {s u : State} {i : Instr} {fp : Footprint}

/-- A step whose body answers next ends in the state the body leaves, but for the outputs; its frame is that of the
body, with PC, which the fetch advances, and the outputs. -/
theorem step_next_of_exec (hr : s.status = .running) (hf : s.fetchOk) (hc : s.current = .ok i)
    (hexec : exec i s.entered = .next u) (hbody : Preserves fp s.entered u) :
    ∃ t, step s = .next t ∧ Preserves { events := true, fbWe := true } u t ∧
      Preserves { fp with pc := true, events := true, fbWe := true } s t := by
  have hend := Preserves.endStep u s.pc (encode i) i.writesDisplay
  refine ⟨_, by rw [step_current hr hf hc, hexec, retire], hend, ?_⟩
  exact ((Preserves.entered s).weaken { }).trans ((hbody.weaken { }).trans (hend.weaken { }))

/-- A step of CALL with room on the stack. -/
theorem step_call {nnn : Addr} (hr : s.status = .running) (hf : s.fetchOk) (hc : s.current = .ok (.call nnn))
    (hsp : s.sp.val < 12) :
    ∃ t, step s = .next t ∧ t.sp.val = s.sp.val + 1 ∧
      (∀ (k : Nat) (hk : k < 12), t.stack[k] = if k = s.sp.val then s.pc + 2 else s.stack[k]) ∧
      Preserves { pc := true, stack := true, sp := true, events := true, fbWe := true } s t := by
  obtain ⟨t, hstep, hend, hframe⟩ := step_next_of_exec hr hf hc
    (exec_call_of_lt (s := s.entered) nnn hsp) (Preserves.call (s := s.entered) nnn hsp)
  refine ⟨t, hstep, congrArg Fin.val (hend.sp rfl), fun k hk => ?_, hframe⟩
  simp only [hend.stack rfl]
  exact State.getElem_push_stack (s := s.entered) (s.pc + 2) hsp hk

/-- A step of RET with an entry on the stack. -/
theorem step_ret {x : Nibble} (hr : s.status = .running) (hf : s.fetchOk) (hc : s.current = .ok (.ret x))
    (hsp : 0 < s.sp.val) :
    ∃ t, step s = .next t ∧ t.sp.val = s.sp.val - 1 ∧ t.pc = s.stack[s.sp.val - 1] ∧
      Preserves { pc := true, sp := true, events := true, fbWe := true } s t := by
  obtain ⟨t, hstep, hend, hframe⟩ := step_next_of_exec hr hf hc
    (exec_ret_of_pos (s := s.entered) x hsp) (Preserves.popToPc s.entered hsp)
  exact ⟨t, hstep, congrArg Fin.val (hend.sp rfl), hend.pc rfl, hframe⟩

end

/-- Settles O30: RET pops the entry that CALL pushed, and takes SP back to where CALL found it. -/
theorem callThenRetReturns : Obligations.CallThenRetReturns := by
  intro s t nnn x hr hf hc hsp hstep hft hct
  obtain ⟨t', hstep', hspt, hstack, hpt⟩ := step_call hr hf hc hsp
  obtain rfl : t = t' := Host.Outcome.next.inj (hstep.symm.trans hstep')
  obtain ⟨u, hu, hspu, hpcu, hpu⟩ := step_ret ((hpt.status rfl).trans hr) hft hct (hspt ▸ Nat.succ_pos _)
  have htop : t.sp.val - 1 = s.sp.val := by omega
  have hpc : u.pc = s.pc + 2 := by rw [hpcu, hstack, if_pos htop]
  have hspus : u.sp = s.sp := Fin.ext (hspu.trans htop)
  refine ⟨u, hu, by rw [hpc]; exact BitVec.toNat_add s.pc 2, hspus, fun k hk => ?_, ?_⟩
  · simp only [hpu.stack rfl, hstack]
  · exact { hpt.trans (hpu.weaken { }) with sp := fun _ => hspus }

/-! ### SYS -/

theorem sysLowByteFree_iff {nnn : Addr} :
    sysLowByteFree nnn = true ↔ nnn.toNat % 256 ≠ 0xE0 ∧ nnn.toNat % 256 ≠ 0xEE := by
  simp [sysLowByteFree, ← BitVec.toNat_inj]

/-- Settles O26: SYS is the unknown-opcode no-op on its own word. -/
theorem sysIsReportedNoOp : Obligations.SysIsReportedNoOp := fun nnn s =>
  ⟨fun hcls hret _ => decodeWord_encode (i := .sys nnn) (sysLowByteFree_iff.mpr ⟨hcls, hret⟩),
    _, rfl, rfl, Preserves.unknownOpcode s _⟩

/-! ### Jumps -/

/-- A 12-bit address and a byte add up without a wrap (R138). -/
theorem toNat_addr_add_byte (nnn : Addr) (b : Byte) :
    (nnn.setWidth 16 + b.setWidth 16).toNat = nnn.toNat + b.toNat := by
  have haddr := nnn.isLt
  have hbyte := b.isLt
  simp only [BitVec.toNat_add, BitVec.toNat_setWidth]
  omega

/-- The high nibble of NNN as a number. -/
theorem extractLsb'_addr_high (nnn : Addr) : nnn.extractLsb' 8 4 = BitVec.ofNat 4 (nnn.toNat / 256) :=
  BitVec.eq_of_toNat_eq (by simp [BitVec.extractLsb'_toNat, Nat.shiftRight_eq_div_pow])

/-- Settles O27: the target of JP V0 for each value of P_JUMP_REG. -/
theorem jumpsSetPc : Obligations.JumpsSetPc := by
  intro nnn s
  refine ⟨fun _ => ⟨decodeWord_encode (i := .jp nnn) rfl, decodeWord_encode (i := .jpV0 nnn) rfl⟩,
    ⟨_, rfl, toNat_setWidth_addr nnn, Preserves.setPc s _⟩,
    ⟨_, rfl, (toNat_addr_add_byte nnn (s.jumpOffset nnn)).trans ?_, Preserves.setPc s _⟩⟩
  cases hreg : s.cfg.jumpReg with
  | v0 => simp only [State.jumpOffset, hreg]
  | vx => simp only [State.jumpOffset, hreg, extractLsb'_addr_high]

/-! ### Skips -/

section
variable (s : State) (a b : Byte)

/-- A skip on equal bytes, in numbers (R127). -/
theorem State.toNat_pc_skipIf_beq : (s.skipIf (a == b)).pc.toNat =
    if a.toNat = b.toNat then (s.pc.toNat + 2) % 65536 else s.pc.toNat := by
  simp only [State.skipIf_eq, beq_iff_eq, BitVec.toNat_inj]
  split
  · exact BitVec.toNat_add s.pc 2
  · rfl

/-- A skip on different bytes leaves PC where one on equal bytes moves it, and the other way round. -/
theorem State.toNat_pc_skipIf_bne : (s.skipIf (a != b)).pc.toNat =
    if a.toNat = b.toNat then s.pc.toNat else (s.pc.toNat + 2) % 65536 := by
  simp only [State.skipIf_eq, bne_iff_ne, ne_eq, ite_not, BitVec.toNat_inj]
  split
  · rfl
  · exact BitVec.toNat_add s.pc 2

end

/-- Settles O28: the skip on V[X] and NN. -/
theorem immediateSkipsCompare : Obligations.ImmediateSkipsCompare := fun x nn s =>
  ⟨fun _ => ⟨decodeWord_encode (i := .seImm x nn) rfl, decodeWord_encode (i := .sneImm x nn) rfl⟩,
    ⟨_, rfl, State.toNat_pc_skipIf_beq s _ nn, Preserves.skipIf s _⟩,
    ⟨_, rfl, State.toNat_pc_skipIf_bne s _ nn, Preserves.skipIf s _⟩⟩

theorem strictNibbleZero_iff {strict : Bool} {n : Nibble} :
    strictNibbleZero strict n = true ↔ strict = false ∨ n = 0x0#4 := by
  simp [strictNibbleZero]

/-- Settles O29: the skip on V[X] and V[Y]; the words that decode are those of R86. -/
theorem registerSkipsCompare : Obligations.RegisterSkipsCompare := fun x y n s =>
  ⟨fun _ hn => ⟨decodeWord_encode (i := .seReg x y n) (strictNibbleZero_iff.mpr hn),
      decodeWord_encode (i := .sneReg x y n) (strictNibbleZero_iff.mpr hn)⟩,
    ⟨_, rfl, State.toNat_pc_skipIf_beq s _ _, Preserves.skipIf s _⟩,
    ⟨_, rfl, State.toNat_pc_skipIf_bne s _ _, Preserves.skipIf s _⟩⟩

end Sys2Proof.Machine
end

section
/-! PROOFS. The ALU and random (42_alu.md): the loads, the logic operations bit by bit, the results with their flags in
numbers, and the masked draw. -/

namespace Sys2Proof.Machine

/-! ### Loads -/

/-- What a write of one register leaves in it, and its frame. -/
theorem State.setV_result (s : State) (x : Nibble) (b : Byte) :
    (s.setV x b).readV x = b ∧ Preserves { v := [x] } s (s.setV x b) :=
  ⟨by rw [State.readV_setV, if_pos rfl], Preserves.setV s x b⟩

/-- Settles O31: each is one write of V[X]. -/
theorem loadsAndImmediateAdd : Obligations.LoadsAndImmediateAdd := by
  intro x y nn s
  obtain ⟨hadd, hframe⟩ := s.setV_result x (s.readV x + nn)
  exact ⟨fun _ => ⟨decodeWord_encode (i := .ldImm x nn) rfl, decodeWord_encode (i := .addImm x nn) rfl,
      decodeWord_encode (i := .ldReg x y) rfl⟩,
    ⟨_, rfl, s.setV_result x nn⟩, ⟨_, rfl, by rw [hadd, BitVec.toNat_add], hframe⟩,
    ⟨_, rfl, s.setV_result x (s.readV y)⟩⟩

/-! ### Logic operations -/

/-- What a logic operation with result r leaves in V[X] and VF: the result, unless the clearing of VF hits it. -/
theorem State.setLogicResult_result (s : State) (x : Nibble) (r : Byte) :
    (s.cfg.logicVF = .unchanged ∨ x ≠ 0xF#4 → (s.setLogicResult x r).readV x = r) ∧
      (s.cfg.logicVF = .cleared → (s.setLogicResult x r).readV 0xF#4 = 0) := by
  refine ⟨fun h => ?_, fun h => by rw [State.readV_setLogicResult, if_pos ⟨rfl, h⟩]⟩
  have hkept : ¬(x = 0xF#4 ∧ s.cfg.logicVF = .cleared) := by
    rintro ⟨hx, hcleared⟩
    rcases h with hunchanged | hne
    · cases hunchanged.symm.trans hcleared
    · exact hne hx
  rw [State.readV_setLogicResult, if_neg hkept, if_pos rfl]

/-- Settles O32: each writes, as a logic result, the byte whose bits are the operation on the operands' bits. -/
theorem logicOperationsBitwise : Obligations.LogicOperationsBitwise := by
  intro x y s
  refine ⟨fun _ => ⟨decodeWord_encode (i := .orReg x y) rfl, decodeWord_encode (i := .andReg x y) rfl,
    decodeWord_encode (i := .xorReg x y) rfl⟩, fun i f hi => ?_⟩
  obtain ⟨r, hexec, hbits⟩ : ∃ r, exec i s = .next (s.setLogicResult x r) ∧
      ∀ b, r.getLsbD b = f ((s.readV x).getLsbD b) ((s.readV y).getLsbD b) := by
    rcases hi with ⟨rfl, rfl⟩ | ⟨rfl, rfl⟩ | ⟨rfl, rfl⟩
    · exact ⟨_, rfl, fun _ => BitVec.getLsbD_or⟩
    · exact ⟨_, rfl, fun _ => BitVec.getLsbD_and⟩
    · exact ⟨_, rfl, fun _ => BitVec.getLsbD_xor⟩
  obtain ⟨hresult, hcleared⟩ := s.setLogicResult_result x r
  exact ⟨_, hexec, fun h b _ => by rw [hresult h, hbits], hcleared, Preserves.setLogicResult s x r⟩

/-! ### Flags in numbers -/

theorem flagByte_toNat (b : Bool) : (flagByte b).toNat = b.toNat := by cases b <;> rfl

theorem carryFlag_toNat (a b : Byte) :
    (carryFlag a b).toNat = if a.toNat + b.toNat > 255 then 1 else 0 := by
  rw [carryFlag, flagByte_toNat, Bool.toNat, Bool.cond_decide]

theorem noBorrowFlag_toNat (subEqFlag : Bool) (a b : Byte) :
    (noBorrowFlag subEqFlag a b).toNat =
      if a.toNat > b.toNat then 1 else if a.toNat = b.toNat then (if subEqFlag then 1 else 0) else 0 := by
  simp only [noBorrowFlag, BitVec.toNat_inj]
  split
  · rfl
  · split
    · cases subEqFlag <;> rfl
    · rfl

theorem shiftedOutLow_toNat (a : Byte) : (shiftedOutLow a).toNat = a.toNat % 2 := by
  rw [shiftedOutLow, flagByte_toNat, BitVec.getLsbD, Nat.toNat_testBit, pow_zero, Nat.div_one]

theorem shiftedOutHigh_toNat (a : Byte) : (shiftedOutHigh a).toNat = a.toNat / 128 := by
  have hlt := a.isLt
  rw [shiftedOutHigh, flagByte_toNat, BitVec.getLsbD, Nat.toNat_testBit]
  omega

/-! ### A result and its flag -/

/-- Two registers are written: V[X] unless the flag takes its place, and VF (R141). -/
theorem State.setResultFlag_result (s : State) (x : Nibble) {r f : Byte} {result flag : Nat}
    (hr : r.toNat = result) (hf : f.toNat = flag) :
    (x ≠ 0xF#4 → ((s.setResultFlag x r f).readV x).toNat = result) ∧
      ((s.setResultFlag x r f).readV 0xF#4).toNat = flag ∧
      Preserves { v := [x, 0xF#4] } s (s.setResultFlag x r f) := by
  refine ⟨fun hx => ?_, ?_, Preserves.setResultFlag s x r f⟩
  · rw [State.readV_setResultFlag, if_neg hx, if_pos rfl, hr]
  · rw [State.readV_setResultFlag, if_pos rfl, hf]

/-- Settles O33: the sum and the carry of the old operands. -/
theorem addSetsSumAndCarry : Obligations.AddSetsSumAndCarry := fun x y s =>
  ⟨fun _ => decodeWord_encode (i := .addReg x y) rfl,
    _, rfl, s.setResultFlag_result x (BitVec.toNat_add _ _) (carryFlag_toNat _ _)⟩

/-- The difference mod 256, without a negative number. -/
theorem toNat_byte_sub (a b : Byte) : (a - b).toNat = (a.toNat + 256 - b.toNat) % 256 := by
  have hb := b.isLt
  rw [BitVec.toNat_sub]
  omega

/-- Settles O34: the two subtractions differ in which operand is the minuend. -/
theorem subtractsSetDifferenceAndNoBorrow : Obligations.SubtractsSetDifferenceAndNoBorrow := by
  intro x y s
  refine ⟨fun _ => ⟨decodeWord_encode (i := .sub x y) rfl, decodeWord_encode (i := .subn x y) rfl⟩, rfl,
    fun i a b hi => ?_⟩
  rcases hi with ⟨rfl, rfl, rfl⟩ | ⟨rfl, rfl, rfl⟩
  · exact ⟨_, rfl, s.setResultFlag_result x (toNat_byte_sub _ _) (noBorrowFlag_toNat _ _ _)⟩
  · exact ⟨_, rfl, s.setResultFlag_result x (toNat_byte_sub _ _) (noBorrowFlag_toNat _ _ _)⟩

theorem toNat_byte_shiftRight_one (a : Byte) : (a >>> 1).toNat = a.toNat / 2 := by
  rw [BitVec.toNat_ushiftRight, Nat.shiftRight_one]

theorem toNat_byte_shiftLeft_one (a : Byte) : (a <<< 1).toNat = a.toNat * 2 % 256 := by
  rw [BitVec.toNat_shiftLeft, Nat.shiftLeft_eq, pow_one]

/-- Settles O35: v is the shift source, for either value of P_SHIFT_SRC. -/
theorem shiftsSetResultAndShiftedOutBit : Obligations.ShiftsSetResultAndShiftedOutBit := by
  intro x y s v hv
  obtain rfl : v = (s.shiftSource x y).toNat := hv
  exact ⟨fun _ => ⟨decodeWord_encode (i := .shr x y) rfl, decodeWord_encode (i := .shl x y) rfl⟩,
    ⟨_, rfl, s.setResultFlag_result x (toNat_byte_shiftRight_one _) (shiftedOutLow_toNat _)⟩,
    ⟨_, rfl, s.setResultFlag_result x (toNat_byte_shiftLeft_one _) (shiftedOutHigh_toNat _)⟩⟩

/-! ### Random -/

/-- Settles O36: the draw is taken, and then V[X] is written with the masked byte. -/
theorem randomLoadMasksTheDraw : Obligations.RandomLoadMasksTheDraw := by
  intro x nn s
  obtain ⟨hresult, hframe⟩ := s.takeRnd.setV_result x (s.rnd &&& nn)
  refine ⟨fun _ => decodeWord_encode (i := .rnd x nn) rfl, _, rfl, rfl, fun b _ => ?_,
    ((Preserves.takeRnd s).weaken { }).trans (hframe.weaken { })⟩
  rw [hresult, BitVec.getLsbD_and, State.rnd]

end Sys2Proof.Machine
end

section
/-! PROOFS. The index register and memory transfers (43_index_memory.md): the writes of I, the bytes and registers
that a transfer through I leaves, and that a load takes back what a store put. -/

namespace Sys2Proof.Machine

/-! ### What a transfer through I leaves -/

@[simp] theorem State.length_bytesAtI (s : State) (n : Nat) : (s.bytesAtI n).length = n := by
  rw [State.bytesAtI, List.length_map, List.length_range]

/-- FX65 loads V[k] from EA(I + k), for every k up to X (R184). -/
theorem readV_of_exec_ldRegs {x : Nibble} {s t : State} {k : Nat} (h : exec (.ldRegs x) s = .next t)
    (hk : k ≤ x.toNat) : t.readV (BitVec.ofNat 4 k) = s.readByte (s.addrAtI k) := by
  obtain ⟨os, rfl⟩ := State.access_next (show execLdRegs x s = _ from h)
  have hx := x.isLt
  have hlen : ((s.emit os).bytesAtI (x.toNat + 1)).length = x.toNat + 1 := State.length_bytesAtI _ _
  have hreg : (BitVec.ofNat 4 k).toNat = k := (BitVec.toNat_ofNat _ _).trans (Nat.mod_eq_of_lt (by omega))
  rw [(Preserves.advanceI _ x).v _ List.not_mem_nil, State.readV_loadFrom _ _ _ _ (by omega),
    if_pos (Nat.zero_le _), hreg, Nat.sub_zero, List.getD_eq_getElem _ _ (by omega), State.addrAtI_eq]
  simp [State.bytesAtI, State.iRel]

theorem State.toNat_i_advanceI (s : State) (x : Nibble) : (s.advanceI x).i.toNat =
    if s.cfg.ldstIncI then (s.i.toNat + x.toNat + 1) % 65536 else s.i.toNat := by
  rw [State.advanceI]
  split
  · simp [Nat.add_assoc]
  · rfl

/-- After a transfer that presented `os` and left I alone, I is advanced or not, and `os` stands behind the events
before. -/
theorem Preserves.advanceI_of_emit {fp : Footprint} {s u : State} {os : List Output} (x : Nibble)
    (h : Preserves fp (s.emit os) u) (hi : fp.i = false) (hevents : fp.events = false) :
    (u.advanceI x).i.toNat = (if s.cfg.ldstIncI then (s.i.toNat + x.toNat + 1) % 65536 else s.i.toNat) ∧
      (u.advanceI x).events = s.events ++ os := by
  constructor
  · rw [State.toNat_i_advanceI, h.cfg, h.i hi]
    rfl
  · exact ((Preserves.advanceI u x).events rfl).trans (h.events hevents)

/-! ### Store, then load -/

/-- Settles O42: the load reads, at the same addresses, the bytes that the store put there. -/
theorem storeThenLoadRestoresRegisters : Obligations.StoreThenLoadRestoresRegisters := by
  intro x s t u w hw hstore hmem hcfg hi hload k hk
  have haddr : u.addrAtI k = s.addrAtI k := by rw [State.addrAtI, State.addrAtI, hi]
  have hread : ∀ a, u.readByte a = t.readByte a := fun a => by rw [State.readByte, State.readByte, hmem, hcfg]
  calc w.readV (BitVec.ofNat 4 k)
    _ = u.readByte (u.addrAtI k) := readV_of_exec_ldRegs hload hk
    _ = t.readByte (s.addrAtI k) := by rw [haddr, hread]
    _ = s.readV (BitVec.ofNat 4 k) := readByte_addrAtI_of_exec_stRegs hw hstore hk

/-! ### Writes of I -/

theorem toNat_setWidth_byte (b : Byte) : (b.setWidth 16).toNat = b.toNat :=
  BitVec.toNat_setWidth_of_le (by decide)

/-- Settles O37: each is one write of I. -/
theorem indexLoadAndAdd : Obligations.IndexLoadAndAdd := by
  intro nnn x s
  have hadd : (s.i + (s.readV x).setWidth 16).toNat = (s.i.toNat + (s.readV x).toNat) % 65536 := by
    rw [BitVec.toNat_add, toNat_setWidth_byte]
  exact ⟨fun _ => ⟨decodeWord_encode (i := .ldI nnn) rfl, decodeWord_encode (i := .addI x) rfl⟩,
    ⟨_, rfl, toNat_setWidth_addr nnn, Preserves.setI s _⟩, ⟨_, rfl, hadd, Preserves.setI s _⟩⟩

/-- The digit of FX29 in numbers (R175; 93_implementation_defined.md U15). -/
theorem State.fontDigit_eq (s : State) (x : Nibble) : s.fontDigit x =
    match s.cfg.fontDigit with
    | .lowNibble => (s.readV x).toNat % 16
    | .wholeByte => (s.readV x).toNat := by
  cases h : s.cfg.fontDigit with
  | lowNibble => simp [State.fontDigit, h]
  | wholeByte => simp [State.fontDigit, h]

theorem State.fontDigit_lt (s : State) (x : Nibble) : s.fontDigit x < 256 := by
  have hv := (s.readV x).isLt
  rw [State.fontDigit_eq]
  split <;> omega

/-- Settles O38: five times a digit below 256 fits in I. -/
theorem fontAddressOfDigit : Obligations.FontAddressOfDigit := by
  intro x s
  have hdigit := s.fontDigit_lt x
  have haddr : (BitVec.ofNat 16 (5 * s.fontDigit x)).toNat = 5 * s.fontDigit x :=
    (BitVec.toNat_ofNat _ _).trans (Nat.mod_eq_of_lt (by omega))
  exact ⟨fun _ => decodeWord_encode (i := .ldF x) rfl,
    _, rfl, haddr.trans (congrArg (5 * ·) (s.fontDigit_eq x)), Preserves.setI s _⟩

/-! ### Stores -/

/-- The digits in numbers: each is below 256. -/
theorem map_toNat_bcdDigits (v : Byte) :
    (bcdDigits v).map BitVec.toNat = [v.toNat / 100, v.toNat / 10 % 10, v.toNat % 10] := by
  have hv := v.isLt
  simp only [bcdDigits, List.map_cons, List.map_nil, BitVec.toNat_ofNat, List.cons.injEq, and_true]
  omega

/-- FX33 stores the k-th digit at EA(I + k) (R178). -/
theorem toNat_readByte_addrAtI_of_exec_ldB {x : Nibble} {s t : State} (hw : s.memWf)
    (h : exec (.ldB x) s = .next t) {k : Nat} (hk : k < 3) : (t.readByte (s.addrAtI k)).toNat =
      [(s.readV x).toNat / 100, (s.readV x).toNat / 10 % 10, (s.readV x).toNat % 10][k] := by
  obtain ⟨os, rfl⟩ := State.access_next (show execLdB x s = _ from h)
  simp only [← map_toNat_bcdDigits, List.getElem_map, State.addrAtI_eq]
  exact congrArg BitVec.toNat
    (State.readByte_storeFrom (bcdDigits (s.readV x)) (s.emit os) s.i.toNat k hk hw (by decide : 3 ≤ 4096))

/-- Settles O39: the digits by the law of the store, and the reports stay behind the events before. -/
theorem bcdStoresThreeDigits : Obligations.BcdStoresThreeDigits := by
  refine fun x s => ⟨fun _ => decodeWord_encode (i := .ldB x) rfl, fun hw hok => ?_⟩
  obtain ⟨_, rfl, hexec⟩ := State.access_ok (fun t => t.storeFrom t.i.toNat (bcdDigits (t.readV x))) hok
  have hdigit := fun k => toNat_readByte_addrAtI_of_exec_ldB (x := x) (k := k) hw hexec
  exact ⟨_, hexec, hdigit 0 (by decide), hdigit 1 (by decide), hdigit 2 (by decide),
    (Preserves.storeFrom _ _).events rfl, exec_preserves (i := .ldB x) hexec⟩

/-- Settles O40: the bytes by the law of the store, I and the reports from the advance after it. -/
theorem registerStoreWritesRange : Obligations.RegisterStoreWritesRange := by
  refine fun x s => ⟨fun _ => decodeWord_encode (i := .stRegs x) rfl, fun hw hok => ?_⟩
  obtain ⟨_, rfl, hexec⟩ :=
    State.access_ok (fun t => (t.storeFrom t.i.toNat (t.regs (x.toNat + 1))).advanceI x) hok
  obtain ⟨hi, hevents⟩ := (Preserves.storeFrom _ _).advanceI_of_emit x rfl rfl
  exact ⟨_, hexec, fun _ => readByte_addrAtI_of_exec_stRegs hw hexec, hi, hevents,
    { exec_preserves (i := .stRegs x) hexec with i := nofun }⟩

/-! ### The load -/

/-- Settles O41: the registers by the law of the load, I and the reports from the advance after it. -/
theorem registerLoadReadsRange : Obligations.RegisterLoadReadsRange := by
  refine fun x s => ⟨fun _ => decodeWord_encode (i := .ldRegs x) rfl, fun hok => ?_⟩
  obtain ⟨_, rfl, hexec⟩ :=
    State.access_ok (fun t => (t.loadFrom 0 (t.bytesAtI (x.toNat + 1))).advanceI x) hok
  have hlen : ((s.emit (s.oobEvents (x.toNat + 1))).bytesAtI (x.toNat + 1)).length ≤ 16 :=
    (State.length_bytesAtI _ _).trans_le x.isLt
  obtain ⟨hi, hevents⟩ := (Preserves.loadFrom _ hlen).advanceI_of_emit x rfl rfl
  exact ⟨_, hexec, fun _ => readV_of_exec_ldRegs hexec, hi, hevents,
    { exec_preserves (i := .ldRegs x) hexec with i := nofun }⟩

end Sys2Proof.Machine
end

section
/-! PROOFS. The display (44_display.md): CLS, and DRW in the words of the claims. A draw toggles the pixels of the
clipped sprite, VF tells whether it turned one off, and both claims about a draw follow from these two laws. -/

namespace Sys2Proof.Machine

/-! ### Clear -/

/-- Settles O45: the display is painted with the blank framebuffer. -/
theorem clearTurnsEveryPixelOff : Obligations.ClearTurnsEveryPixelOff := fun x s =>
  ⟨fun _ => decodeWord_encode (i := .cls x) rfl, rfl,
    _, rfl, fun px _ py _ => Framebuffer.get_blank px py, rfl, Preserves.paint s _⟩

/-! ### Draw -/

theorem flagByte_eq_one_iff (b : Bool) : flagByte b = 1 ↔ b = true := by cases b <;> decide

theorem flagByte_eq_zero_iff (b : Bool) : flagByte b = 0 ↔ b = false := by cases b <;> decide

/-- Where the sprite of a draw can be (R195): from its origin on, at most eight columns and n rows. -/
theorem State.spriteSets_iff (s : State) (x y n : Nibble) (px py : Nat) : s.spriteSets x y n px py = true ↔
    (s.originX x ≤ px ∧ px < s.originX x + 8 ∧ s.originY y ≤ py ∧ py < s.originY y + n.toNat) ∧
      (s.readByte (s.addrAtI (py - s.originY y))).getLsbD (7 - (px - s.originX x)) = true := by
  rw [State.spriteSets, Bool.and_eq_true, decide_eq_true_iff]
  rfl

/-- The sprite depends on V[X], V[Y], I and memory only. -/
theorem State.spriteSets_congr {s t : State} {x y : Nibble} (hx : t.readV x = s.readV x)
    (hy : t.readV y = s.readV y) (hi : t.i = s.i) (hmem : ∀ a, t.readByte a = s.readByte a) (n : Nibble)
    (px py : Nat) : t.spriteSets x y n px py = s.spriteSets x y n px py := by
  simp only [State.spriteSets, State.addrAtI, hx, hy, hi, hmem]

section
variable {x y n : Nibble} {s t : State} {px py : Nat}

/-- A draw XORs the sprite onto the screen (R195). -/
theorem pixel_of_exec_drw (h : exec (.drw x y n) s = .next t) (hx : px < 64) (hy : py < 32) :
    t.pixel px py = (s.pixel px py != s.spriteSets x y n px py) := by
  obtain ⟨os, rfl⟩ := State.access_next (show execDrw x y n s = _ from h)
  rw [Bool.bne_eq_xor]
  exact (s.emit os).drawSprite_get x y n hx hy

/-- A draw changes the pixels of the sprite and no other. -/
theorem pixel_ne_iff_of_exec_drw (h : exec (.drw x y n) s = .next t) (hx : px < 64) (hy : py < 32) :
    t.pixel px py ≠ s.pixel px py ↔ s.spriteSets x y n px py = true := by
  rw [pixel_of_exec_drw h hx hy]
  cases s.pixel px py <;> simp

/-- A draw leaves c of R195 in VF, whatever X and Y are. -/
theorem readV_VF_of_exec_drw (h : exec (.drw x y n) s = .next t) :
    t.readV 0xF#4 = flagByte (s.drawSprite x y n).2 := by
  obtain ⟨os, rfl⟩ := State.access_next (show execDrw x y n s = _ from h)
  exact (State.readV_setV _ _ _ _).trans (if_pos rfl)

/-- c of R195: a pixel has gone from on to off. -/
theorem drawSprite_hit_iff_of_exec_drw (h : exec (.drw x y n) s = .next t) :
    (s.drawSprite x y n).2 = true ↔ ∃ px < 64, ∃ py < 32, s.pixel px py = true ∧ t.pixel px py = false := by
  have hoff : ∀ {px py}, px < 64 → py < 32 → s.pixel px py = true →
      (t.pixel px py = false ↔ s.spriteSets x y n px py = true) := fun hx hy hon => by
    rw [← pixel_ne_iff_of_exec_drw h hx hy, hon, ne_eq, Bool.not_eq_true]
  rw [State.drawSprite_hit]
  constructor
  · rintro ⟨px, py, hx, hy, hset, hon⟩
    exact ⟨px, hx, py, hy, hon, (hoff hx hy hon).mpr hset⟩
  · rintro ⟨px, hx, py, hy, hon, hwent⟩
    exact ⟨px, py, hx, hy, (hoff hx hy hon).mp hwent, hon⟩

/-- VF after a draw is 1 exactly when a pixel went from on to off (R195). -/
theorem readV_VF_eq_one_iff_of_exec_drw (h : exec (.drw x y n) s = .next t) :
    t.readV 0xF#4 = 1 ↔ ∃ px < 64, ∃ py < 32, s.pixel px py = true ∧ t.pixel px py = false := by
  rw [readV_VF_of_exec_drw h, flagByte_eq_one_iff, drawSprite_hit_iff_of_exec_drw h]

/-- And it is 0 exactly when none did. -/
theorem readV_VF_eq_zero_iff_of_exec_drw (h : exec (.drw x y n) s = .next t) :
    t.readV 0xF#4 = 0 ↔ ∀ px < 64, ∀ py < 32, ¬(s.pixel px py = true ∧ t.pixel px py = false) := by
  rw [readV_VF_of_exec_drw h, flagByte_eq_zero_iff, ← Bool.not_eq_true, drawSprite_hit_iff_of_exec_drw h]
  simp only [not_exists, not_and]

/-- A draw whose operands are not VF leaves its sprite as it was. -/
theorem spriteSets_of_exec_drw (hx : x ≠ 0xF#4) (hy : y ≠ 0xF#4) (h : exec (.drw x y n) s = .next t)
    (px py : Nat) : t.spriteSets x y n px py = s.spriteSets x y n px py := by
  have hframe : Preserves { v := [0xF#4], fb := true, dirty := true, events := true } s t := exec_preserves h
  exact State.spriteSets_congr (hframe.v x (List.mem_singleton.not.mpr hx)) (hframe.v y (List.mem_singleton.not.mpr hy))
    (hframe.i rfl) (fun a => hframe.mem a List.not_mem_nil) n px py

end

/-- Settles O46: the pixels and VF by the two laws of the draw, the reports by the address check of its rows. -/
theorem drawXorsClippedSprite : Obligations.DrawXorsClippedSprite := by
  refine fun x y n s => ⟨fun _ => decodeWord_encode (i := .drw x y n) rfl, rfl, fun rows hrows hok => ?_⟩
  obtain rfl : rows = visibleRows n.toNat (s.originY y) := hrows
  obtain ⟨_, rfl, hexec⟩ := State.access_ok
    (fun t => (t.paint (t.drawSprite x y n).1).setV 0xF#4 (flagByte (t.drawSprite x y n).2)) hok
  exact ⟨_, hexec, fun _ hx _ hy => pixel_of_exec_drw hexec hx hy, (readV_VF_eq_one_iff_of_exec_drw hexec).mpr,
    (readV_VF_eq_zero_iff_of_exec_drw hexec).mpr, rfl, rfl, exec_preserves (i := .drw x y n) hexec⟩

/-- Settles O47: the second draw has the sprite of the first, and so undoes it pixel by pixel. -/
theorem drawTwiceRestoresFramebuffer : Obligations.DrawTwiceRestoresFramebuffer := by
  intro x y n s t u w hxF hyF hfirst hfb hmem hcfg hi hux huy hsecond
  have hread : ∀ a, u.readByte a = t.readByte a := fun a => by rw [State.readByte, State.readByte, hmem, hcfg]
  have hsprite : ∀ px py, u.spriteSets x y n px py = s.spriteSets x y n px py := fun px py =>
    (State.spriteSets_congr hux huy hi hread n px py).trans (spriteSets_of_exec_drw hxF hyF hfirst px py)
  have hpixel : ∀ px py, u.pixel px py = t.pixel px py := fun px py => by rw [State.pixel, State.pixel, hfb]
  have hrestored : ∀ px < 64, ∀ py < 32, w.pixel px py = s.pixel px py := fun px hx py hy => by
    rw [pixel_of_exec_drw hsecond hx hy, hpixel, hsprite, pixel_of_exec_drw hfirst hx hy, Bool.bne_assoc,
      bne_self_eq_false, Bool.bne_false]
  refine ⟨Framebuffer.ext_get hrestored, ?_⟩
  rw [readV_VF_eq_one_iff_of_exec_drw hsecond]
  constructor
  · rintro ⟨px, hx, py, hy, hon, hoff⟩
    exact ⟨px, hx, py, hy, (hrestored px hx py hy).symm.trans hoff, (hpixel px py).symm.trans hon⟩
  · rintro ⟨px, hx, py, hy, hoff, hon⟩
    exact ⟨px, hx, py, hy, (hpixel px py).trans hon, (hrestored px hx py hy).trans hoff⟩

/-- Settles O48: a changed pixel is one of the sprite, and the screen ends at column 63 and row 31. -/
theorem drawAtEdgeIsClipped : Obligations.DrawAtEdgeIsClipped := by
  intro x y n s t px py h hx hy hne
  obtain ⟨⟨hleft, _, htop, _⟩, hbit⟩ := (s.spriteSets_iff x y n px py).mp ((pixel_ne_iff_of_exec_drw h hx hy).mp hne)
  refine ⟨hleft, htop, fun hcol => ?_, fun hrow => ?_⟩
  · have hx0 : s.originX x = 63 := hcol
    obtain rfl : px = 63 := by omega
    rw [hx0] at hbit
    exact ⟨rfl, hbit⟩
  · have hy0 : s.originY y = 31 := hrow
    omega

end Sys2Proof.Machine
end

section
/-! PROOFS. The keypad and the timers (45_keypad_timers.md): the key skips, FX0A with and without a key down, the wait
for a key as a loop of steps, and the timer transfers. -/

namespace Sys2Proof.Machine

/-! ### Key skips -/

section
variable {s : State}

theorem State.toNat_pc_skipIf (s : State) (c : Bool) :
    (s.skipIf c).pc.toNat = if c = true then (s.pc.toNat + 2) % 65536 else s.pc.toNat := by
  cases c
  · rfl
  · exact BitVec.toNat_add s.pc 2

/-- The key bit that KeyIndex picks is that of the low nibble (R210). -/
theorem State.keyDown_lowNibble (s : State) (v : Byte) :
    s.keyDown (v.extractLsb' 0 4) = s.keys.getLsbD (v.toNat % 16) := by
  rw [State.keyDown, BitVec.extractLsb'_toNat, Nat.shiftRight_zero]

/-- A key number that is let through: its report if there is one, then the effect. -/
theorem State.withKeyIndex_ok {v : Byte} (f : Nibble → State → State)
    (h : s.cfg.keyOob = .mask ∨ v.toNat ≤ 0x0F) : s.withKeyIndex v f =
      .next (f (v.extractLsb' 0 4) (s.emit (if v.toNat > 0x0F then [.diag (.keyOob v)] else []))) := by
  rcases State.withKeyIndex_cases (s := s) (v := v) (k := f) rfl with ⟨os, hnext, rfl⟩ | ⟨hfault, hv, _⟩
  · rw [hnext]
    simp only [gt_iff_lt, ← Nat.not_le, ite_not]
  · rcases h with hmask | hle
    · rw [hfault] at hmask; cases hmask
    · exact absurd hle (Nat.not_le.mpr hv)

/-- EX9E (d = true) and EXA1 (d = false) skip when the key of V[X] is in state d. -/
theorem exec_keySkip {x : Nibble} {i : Instr} {d : Bool} (h : s.cfg.keyOob = .mask ∨ (s.readV x).toNat ≤ 0x0F)
    (hi : (i = .skp x ∧ d = true) ∨ (i = .sknp x ∧ d = false)) : exec i s =
      .next ((s.emit (if (s.readV x).toNat > 0x0F then [.diag (.keyOob (s.readV x))] else [])).skipIf
        (s.keys.getLsbD ((s.readV x).toNat % 16) == d)) := by
  rcases hi with ⟨rfl, rfl⟩ | ⟨rfl, rfl⟩
  · refine (show execSkp x s = _ from State.withKeyIndex_ok _ h).trans ?_
    rw [State.keyDown_lowNibble, beq_true, State.emit_keys]
  · refine (show execSknp x s = _ from State.withKeyIndex_ok _ h).trans ?_
    rw [State.keyDown_lowNibble, beq_false, State.emit_keys]

end

/-- Settles O49: the report is presented, and then the skip moves PC alone. -/
theorem keySkipsTestOneKey : Obligations.KeySkipsTestOneKey := by
  refine fun x s => ⟨fun _ => ⟨decodeWord_encode (i := .skp x) rfl, decodeWord_encode (i := .sknp x) rfl⟩,
    fun h i d hi => ⟨_, exec_keySkip h hi, ?_, (Preserves.skipIf _ _).events rfl, ?_⟩⟩
  · rw [State.toNat_pc_skipIf]
    simp only [beq_iff_eq, State.emit_pc]
  · exact ((Preserves.emit s _).weaken { }).trans ((Preserves.skipIf _ _).weaken { })

/-! ### The key-wait instruction -/

section
variable {s : State} {k : Nat}

/-- FX0A with no key down goes back to its own address (R213). -/
theorem exec_ldVxK_of_no_key (x : Nibble) (h : s.keys = 0) : exec (.ldVxK x) s = .next (s.setPc s.instrAddr) := by
  simp only [exec, execLdVxK, s.lowestKey_eq_none.mpr h, State.instrAddr]

/-- FX0A with a key down takes the lowest (R213). -/
theorem exec_ldVxK_of_key (x : Nibble) (h : s.lowestKey = some k) :
    exec (.ldVxK x) s = .next (s.setV x (BitVec.ofNat 8 k)) := by
  simp only [exec, execLdVxK, h]

/-- The lowest key fits in a register. -/
theorem toNat_readV_setV_key (x : Nibble) (h : s.lowestKey = some k) (t : State) :
    ((t.setV x (BitVec.ofNat 8 k)).readV x).toNat = k := by
  obtain ⟨hk, _⟩ := State.lowestKey_eq_some.mp h
  rw [State.readV_setV, if_pos rfl, BitVec.toNat_ofNat]
  omega

end

/-- Settles O50: the two answers of FX0A. -/
theorem keyWaitTakesLowestKey : Obligations.KeyWaitTakesLowestKey := by
  refine fun x s => ⟨fun _ => decodeWord_encode (i := .ldVxK x) rfl,
    fun h => ⟨_, exec_ldVxK_of_no_key x h, ?_, Preserves.setPc s _⟩, fun h => ?_⟩
  · rw [State.setPc_pc, State.instrAddr, BitVec.toNat_sub, Nat.add_comm]
    rfl
  · obtain ⟨k, hk⟩ := Option.ne_none_iff_exists'.mp (mt s.lowestKey_eq_none.mp h)
    obtain ⟨hlt, hdown, hlower⟩ := State.lowestKey_eq_some.mp hk
    refine ⟨_, exec_ldVxK_of_key x hk, ?_⟩
    rw [toNat_readV_setV_key x hk]
    exact ⟨hlt, hdown, hlower, Preserves.setV s x _⟩

/-! ### Waiting for a key -/

theorem Preserves.fetchOk {fp : Footprint} {s t : State} (h : Preserves fp s t) (hpc : fp.pc = false)
    (hf : s.fetchOk) : t.fetchOk := by
  rwa [State.fetchOk, h.cfg, h.pc hpc]

/-- The current instruction depends on PC, memory and the parameters only. -/
theorem Preserves.current {fp : Footprint} {s t : State} (h : Preserves fp s t) (hpc : fp.pc = false)
    (hmem : fp.stored = []) : t.current = s.current := by
  have hread : ∀ a, t.readByte a = s.readByte a := fun a => h.mem a (hmem ▸ List.not_mem_nil)
  simp only [State.current, h.cfg, h.pc hpc, hread]

/-- The machine runs and stands at an FX0A. -/
structure State.AtKeyWait (s : State) (x : Nibble) : Prop where
  running : s.status = .running
  fetchOk : s.fetchOk
  current : s.current = .ok (.ldVxK x)

section
variable {s : State} {x : Nibble}

theorem State.AtKeyWait.of_preserves {fp : Footprint} {t : State} (hw : s.AtKeyWait x) (h : Preserves fp s t)
    (hstatus : fp.status = false) (hpc : fp.pc = false) (hmem : fp.stored = []) : t.AtKeyWait x where
  running := (h.status hstatus).trans hw.running
  fetchOk := h.fetchOk hpc hw.fetchOk
  current := (h.current hpc hmem).trans hw.current

/-- One step of the wait: the rewind undoes the advance of the fetch, so PC is kept. -/
theorem State.AtKeyWait.step_of_no_key (hw : s.AtKeyWait x) (hkeys : s.keys = 0) :
    ∃ t, step s = .next t ∧ Preserves { events := true, fbWe := true } s t := by
  obtain ⟨t, hstep, hend, hframe⟩ := step_next_of_exec hw.running hw.fetchOk hw.current
    (exec_ldVxK_of_no_key (s := s.entered) x hkeys) (Preserves.setPc s.entered _)
  exact ⟨t, hstep, { hframe with pc := fun _ => (hend.pc rfl).trans s.entered_instrAddr }⟩

/-- The step that ends the wait. -/
theorem State.AtKeyWait.step_of_key {k : Nat} (hw : s.AtKeyWait x) (hk : s.lowestKey = some k) :
    ∃ t, step s = .next t ∧ (t.readV x).toNat = k ∧ t.pc = s.pc + 2 := by
  obtain ⟨t, hstep, hend, _⟩ := step_next_of_exec hw.running hw.fetchOk hw.current
    (exec_ldVxK_of_key (s := s.entered) x hk) (Preserves.setV s.entered x _)
  refine ⟨t, hstep, ?_, hend.pc rfl⟩
  rw [hend.v x List.not_mem_nil, toNat_readV_setV_key x hk]

/-- A run whose first step answers next goes on from there. -/
theorem run_succ_of_step {M : Host.Core} {s t : M.State} (h : M.step s = .next t) (n : Nat) :
    M.run (n + 1) s = M.run n t := by
  simp only [Host.Core.run, h]

/-- The wait lasts as long as no key is down. -/
theorem State.AtKeyWait.run_of_no_key (n : Nat) (hw : s.AtKeyWait x) (hkeys : s.keys = 0) :
    ∃ t : State, core.run n s = .next t ∧ Preserves { events := true, fbWe := true } s t := by
  induction n generalizing s with
  | zero => exact ⟨s, rfl, Preserves.refl _ s⟩
  | succ n ih =>
    obtain ⟨u, hstep, hu⟩ := hw.step_of_no_key hkeys
    obtain ⟨t, hrun, ht⟩ := ih (hw.of_preserves hu rfl rfl rfl) ((hu.keys rfl).trans hkeys)
    exact ⟨t, (run_succ_of_step (M := core) hstep n).trans hrun, hu.trans ht⟩

/-- A key pressed while none is down is the lowest. -/
theorem State.lowestKey_key (hkeys : s.keys = 0) (k : Nibble) : (s.key k true).lowestKey = some k.toNat := by
  refine State.lowestKey_eq_some.mpr ⟨k.isLt, ?_, fun j hj => ?_⟩
  · rw [State.getLsbD_key s k true k.isLt, if_pos rfl]
  · rw [State.getLsbD_key s k true (hj.trans k.isLt), if_neg hj.ne, hkeys]
    exact BitVec.getLsbD_zero

end

/-- Settles O51: the steps of the wait keep all but the outputs, and the key that ends it is the only one down. -/
theorem keyWaitRepeatsUntilKey : Obligations.KeyWaitRepeatsUntilKey := by
  intro x k s n hr hf hc hkeys
  have hw : s.AtKeyWait x := ⟨hr, hf, hc⟩
  obtain ⟨t, hrun, ht⟩ := hw.run_of_no_key n hkeys
  have hpressed : (t.key k true).AtKeyWait x :=
    (hw.of_preserves ht rfl rfl rfl).of_preserves (Preserves.key t k true) rfl rfl rfl
  obtain ⟨u, hstep, hreg, hpc⟩ := hpressed.step_of_key (State.lowestKey_key ((ht.keys rfl).trans hkeys) k)
  refine ⟨t, u, hrun, ht, hstep, hreg, ?_⟩
  rw [hpc, State.key_pc, ht.pc rfl]
  exact BitVec.toNat_add s.pc 2

/-! ### Timer transfers -/

/-- The sound output is on while ST is not 0 (R51). -/
theorem State.soundOn_eq (s : State) : s.soundOn = decide (s.st.toNat ≠ 0) := by
  rw [Bool.eq_iff_iff, State.soundOn, bne_iff_ne, decide_eq_true_iff, ne_eq, ne_eq, ← BitVec.toNat_inj]
  rfl

/-- Settles O52: each is one write. -/
theorem timerTransfers : Obligations.TimerTransfers := fun x s =>
  ⟨fun _ => ⟨decodeWord_encode (i := .ldVxDt x) rfl, decodeWord_encode (i := .ldDtVx x) rfl,
      decodeWord_encode (i := .ldStVx x) rfl⟩,
    ⟨_, rfl, s.setV_result x s.dt⟩, ⟨_, rfl, rfl, Preserves.setDt s _⟩,
    ⟨_, rfl, rfl, State.soundOn_eq _, Preserves.setSt s _⟩⟩

end Sys2Proof.Machine
end

section
/-! PROOFS. Exceptions, outputs and timers (60_exceptions.md): every step answers, the timer tick, which steps halt
and what a stack fault leaves, and that the outputs decide nothing. -/

namespace Sys2Proof.Machine

/-! ### Every step answers -/

/-- At the mask policies neither the fetch nor a body stops the model. -/
theorem step_answers {s : State} (hoob : s.cfg.oob = .mask) (hkey : s.cfg.keyOob = .mask) :
    ∃ t, step s = .next t := by
  by_cases hr : s.status = .running
  · have hf : s.fetchOk := .inl hoob
    rcases hc : s.current with e | i
    · exact ⟨_, step_unknown hr hf hc⟩
    · obtain ⟨u, hexec⟩ := exec_answers (i := i) (s := s.entered) hoob hkey
      exact ⟨_, by rw [step_decoded hr hf hc, hexec, retire]⟩
  · exact ⟨s, step_not_running hr⟩

theorem retire_eq_refused_iff {o : Host.Outcome State Fault Refusal} {a op : Word} {d : Bool} {r : Refusal} :
    retire a op d o = .refused r ↔ o = .refused r := by
  cases o <;> simp [retire]

/-- Only a body could refuse, and none does. -/
theorem step_not_refused (s : State) (r : Refusal) : step s ≠ .refused r := by
  by_cases hr : s.status = .running
  · by_cases hf : s.fetchOk
    · rcases hc : s.current with e | i
      · rw [step_unknown hr hf hc]; nofun
      · rw [step_decoded hr hf hc, ne_eq, retire_eq_refused_iff]
        exact exec_not_refused i s.entered r
    · rw [step_fetch_stopped hr hf]; nofun
  · rw [step_not_running hr]; nofun

/-- Settles O10: by whether the machine runs, whether its fetch is stopped, and whether the word decodes. -/
theorem stepAlwaysAnswers : Obligations.StepAlwaysAnswers :=
  ⟨fun _ hoob hkey => step_answers hoob hkey, step_not_refused⟩

/-! ### The timers -/

theorem Preserves.tick (s : State) : Preserves { dt := true, st := true } s s.tick := by
  rw [State.tick_eq]
  split
  · exact ((Preserves.setDt s _).weaken { }).trans ((Preserves.setSt _ _).weaken { })
  · exact Preserves.refl _ s

section
variable {s : State}

/-- A TICK of a machine that does not run. -/
theorem State.tick_not_running (h : s.status ≠ .running) : s.tick = s := by
  rw [State.tick_eq, if_neg h]

theorem State.toNat_dt_tick (h : s.status = .running) : s.tick.dt.toNat = s.dt.toNat - 1 := by
  rw [State.tick_eq, if_pos h]
  exact toNat_decrement s.dt

theorem State.toNat_st_tick (h : s.status = .running) : s.tick.st.toNat = s.st.toNat - 1 := by
  rw [State.tick_eq, if_pos h]
  exact toNat_decrement s.st

end

/-- Settles O53: on each timer a TICK is one decrement, which stops at 0. -/
theorem tickDecrementsBothTimers : Obligations.TickDecrementsBothTimers := fun s =>
  ⟨fun h => ⟨State.toNat_dt_tick h, State.toNat_st_tick h, Preserves.tick s⟩, State.tick_not_running⟩

/-- Settles O54, by induction on the number of TICKs: each leaves STATUS at Running. -/
theorem timersReachZeroAfterThatManyTicks : Obligations.TimersReachZeroAfterThatManyTicks := by
  intro s n hr
  induction n generalizing s with
  | zero => exact ⟨s, rfl, rfl, rfl, Preserves.refl _ s⟩
  | succ n ih =>
    have hp := Preserves.tick s
    obtain ⟨t, hrun, hdt, hst, ht⟩ := ih s.tick ((hp.status rfl).trans hr)
    have hdt' := State.toNat_dt_tick hr
    have hst' := State.toNat_st_tick hr
    refine ⟨t, ?_, by omega, by omega, hp.trans ht⟩
    rw [List.replicate_succ, Block.run_cons (b := .up s) (b' := .up s.tick) rfl]
    exact hrun

/-! ### Stack faults -/

/-- What a step that takes a stack fault leaves: PC at the instruction, STATUS, FAULT and the outputs written. -/
def State.stackFaulted (s : State) (c : FaultCause) (op : Word) : State :=
  { s with
    status := .halted
    fault := { cause := c, pc := s.pc, op := op }
    fbWe := false
    events := s.events ++ s.pcEvents ++ [.diag (.stackFault c s.pc op)] }

/-- The fault takes back the fetch's advance of PC, and the step ends with no trace and FB_WE 0. -/
theorem State.endStep_raiseFault_entered (s : State) (c : FaultCause) (op a w : Word) (d : Bool) :
    (s.entered.raiseFault c op).endStep a w d = s.stackFaulted c op := by
  have hpc : s.pc + 2 - 2 = s.pc := BitVec.add_sub_cancel s.pc 2
  rw [State.endStep_stopped (by simp), State.raiseFault_eq, State.entered_pc, hpc]
  rfl

theorem Preserves.stackFaulted (s : State) (c : FaultCause) (op : Word) :
    Preserves { status := true, fault := true, events := true, fbWe := true } s (s.stackFaulted c op) := by
  constructor
  case status | fault | events | fbWe => nofun
  all_goals intros; rfl

/-- Settles O14: a body that leaves STATUS at Halted took a stack fault, and nothing else in a step writes STATUS. -/
theorem onlyStackFaultsHaltAStep : Obligations.OnlyStackFaultsHaltAStep := by
  intro s t hr hstep hstop
  rcases step_cases hstep with ⟨hn, _⟩ | ⟨_, _, ⟨i, u, hc, hexec, rfl⟩ | ⟨e, _, rfl⟩⟩
  · exact absurd hr hn
  · rcases exec_status hexec with ⟨hstatus, _⟩ | ⟨nnn, rfl, hsp, rfl⟩ | ⟨x, rfl, hsp, rfl⟩
    · exact absurd (((Preserves.endStep u _ _ _).status rfl).trans (hstatus.trans hr)) hstop
    · rw [State.endStep_raiseFault_entered]
      exact ⟨rfl, .inl ⟨nnn, hc, hsp, rfl⟩⟩
    · rw [State.endStep_raiseFault_entered]
      exact ⟨rfl, .inr ⟨x, hc, hsp, rfl⟩⟩
  · have hkept := (Preserves.endStep (s.entered.unknownOpcode s.fetchWord) s.pc s.fetchWord false).status rfl
    exact absurd (hkept.trans hr) hstop

/-- A step whose body takes a stack fault. -/
theorem step_stackFaulted {s : State} {i : Instr} {c : FaultCause} (hr : s.status = .running) (hf : s.fetchOk)
    (hc : s.current = .ok i) (hexec : exec i s.entered = .next (s.entered.raiseFault c (encode i))) :
    step s = .next (s.stackFaulted c (encode i)) := by
  rw [step_current hr hf hc, hexec, retire, State.endStep_raiseFault_entered]

/-- Settles O15: the state after the fault is `State.stackFaulted`, which does not run. -/
theorem stackFaultStepIsPrecise : Obligations.StackFaultStepIsPrecise := by
  intro s i c hr hf hc hfault
  have hexec : exec i s.entered = .next (s.entered.raiseFault c (encode i)) := by
    rcases hfault with ⟨⟨nnn, rfl⟩, hsp, rfl⟩ | ⟨⟨x, rfl⟩, hsp, rfl⟩
    · exact exec_call_full nnn hsp
    · exact exec_ret_empty x hsp
  have hstop : (s.stackFaulted c (encode i)).status ≠ .running := by simp [State.stackFaulted]
  exact ⟨_, step_stackFaulted hr hf hc hexec, rfl, rfl, rfl, rfl, rfl, rfl, rfl, Preserves.stackFaulted s c _,
    step_not_running hstop, State.tick_not_running hstop⟩

/-! ### The outputs decide nothing -/

section
variable {s : State} {es : List Output} {we : Bool} {o o' : Host.Outcome State Fault Refusal}

/-- The end of a step adds the same events to any, and sets FB_WE whatever it was. -/
theorem State.endStep_withOutputs (t : State) (es : List Output) (we : Bool) (a op : Word) (d : Bool) :
    ∃ new, (t.endStep a op d).events = t.events ++ new ∧
      (t.withOutputs es we).endStep a op d =
        (t.endStep a op d).withOutputs (es ++ new) (t.endStep a op d).fbWe := by
  by_cases h : t.status = .running
  · have h' : (t.withOutputs es we).status = .running := h
    rw [State.endStep_running h, State.endStep_running h']
    exact ⟨_, rfl, rfl⟩
  · have h' : (t.withOutputs es we).status ≠ .running := h
    rw [State.endStep_stopped h, State.endStep_stopped h']
    exact ⟨[], (List.append_nil _).symm, by rw [List.append_nil]; rfl⟩

/-- Bodies that answer alike make steps that do; a completed step has set FB_WE. -/
theorem Alike.retire (h : Alike s es we o o') (a op : Word) (d : Bool) :
    ∃ we', Alike s es we' (retire a op d o) (retire a op d o') := by
  rcases h with ⟨t, new, rfl, rfl, hev⟩ | ⟨f, rfl, rfl⟩ | ⟨r, rfl, rfl⟩
  · obtain ⟨last, hlast, hend⟩ := t.endStep_withOutputs (es ++ new) we a op d
    rw [List.append_assoc] at hend
    exact ⟨_, .inl ⟨_, new ++ last, rfl, congrArg _ hend, by rw [hlast, hev, List.append_assoc]⟩⟩
  · exact ⟨we, .inr (.inl ⟨f, rfl, rfl⟩)⟩
  · exact ⟨we, .inr (.inr ⟨r, rfl, rfl⟩)⟩

/-- Alike from where a body begins is alike from where the step began: the fetch's event is one of the new. -/
theorem Alike.of_entered (h : Alike s.entered (es ++ s.pcEvents) we o o') : Alike s es we o o' := by
  rcases h with ⟨t, new, ho, ho', hev⟩ | hstop
  · refine .inl ⟨t, s.pcEvents ++ new, ho, ?_, ?_⟩
    · rw [ho', List.append_assoc]
    · rw [hev, State.entered_events, List.append_assoc]
  · exact .inr hstop

/-- The status, the fetch and the decoder do not look at the outputs, and neither does a body. -/
theorem step_withOutputs (s : State) (es : List Output) (we : Bool) :
    ∃ we', Alike s es we' (step s) (step (s.withOutputs es we)) := by
  by_cases hr : s.status = .running
  · have hr' : (s.withOutputs es we).status = .running := hr
    by_cases hf : s.fetchOk
    · have hf' : (s.withOutputs es we).fetchOk := hf
      rcases hc : s.current with e | i
      · have hbody : Alike s.entered (es ++ s.pcEvents) we (.next (s.entered.unknownOpcode s.fetchWord))
            (.next ((s.withOutputs es we).entered.unknownOpcode s.fetchWord)) := .inl ⟨_, [_], rfl, rfl, rfl⟩
        rw [step_unknown hr hf hc, step_unknown hr' hf' hc]
        exact hbody.of_entered.retire s.pc s.fetchWord false
      · have hbody := exec_withOutputs i s.entered (es ++ s.pcEvents) we
        rw [step_decoded hr hf hc, step_decoded hr' hf' hc]
        exact hbody.of_entered.retire s.pc s.fetchWord i.writesDisplay
    · have hf' : ¬(s.withOutputs es we).fetchOk := hf
      rw [step_fetch_stopped hr hf, step_fetch_stopped hr' hf']
      exact ⟨we, .inr (.inl ⟨_, rfl, rfl⟩)⟩
  · have hr' : (s.withOutputs es we).status ≠ .running := hr
    rw [step_not_running hr, step_not_running hr']
    exact ⟨we, Alike.quiet rfl⟩

end

/-- Settles O21: by the outcome the two steps share. -/
theorem outputsDecideNothing : Obligations.OutputsDecideNothing := by
  intro s es we
  obtain ⟨we', halike⟩ := step_withOutputs s es we
  rcases halike with ⟨t, new, h, h', hev⟩ | ⟨f, h, h'⟩ | ⟨r, h, h'⟩
  · rw [h, h']
    exact ⟨rfl, new, hev, rfl⟩
  · rw [h, h']
  · rw [h, h']

end Sys2Proof.Machine
end

section
/-! PROOFS. The startup faults of 70_reset_and_hazards.md R273: what INIT leaves without an admissible ROM, and that only
another INIT leads out of it. -/

namespace Sys2Proof.Machine

theorem Block.afterInit_missing (cfg : Config) (draws : Nat) :
    Block.afterInit cfg draws .missing = .absent .missingOrUnreadable cfg draws := rfl

theorem initialise_oversize (cfg : Config) (draws : Nat) {rom : List Byte} (h : romMax < rom.length) :
    initialise cfg draws (.bytes rom) = .error (.oversize rom.length romMax) := if_pos h

theorem Block.afterInit_oversize (cfg : Config) (draws : Nat) {rom : List Byte} (h : romMax < rom.length) :
    Block.afterInit cfg draws (.bytes rom) = .absent (.oversize rom.length romMax) cfg draws := by
  simp only [Block.afterInit, initialise_oversize cfg draws h]

section
variable (why : StartupFault) (cfg : Config) (draws : Nat)

theorem Block.react_absent {e : HostEvent} (h : ∀ r, e ≠ .init r) :
    (Block.absent why cfg draws).react e = .next (.absent why cfg draws) := by
  cases e with
  | init rom => exact absurd rfl (h rom)
  | step | tick | key | pause | resume | halt | dirtyClr => rfl

/-- A block without state stays so through any events but INIT, by induction on the list of events. -/
theorem Block.run_absent {es : List HostEvent} (h : ∀ r, .init r ∉ es) :
    (Block.absent why cfg draws).run es = .next (.absent why cfg draws) := by
  induction es with
  | nil => rfl
  | cons e es ih =>
    have hhead : ∀ r, e ≠ .init r := fun r he => h r (he ▸ List.mem_cons_self)
    have htail : ∀ r, .init r ∉ es := fun r hmem => h r (List.mem_cons_of_mem e hmem)
    rw [Block.run_cons (Block.react_absent why cfg draws hhead), ih htail]

end

/-- Settles O57: INIT is `Block.afterInit` in either case, and a run without INIT keeps the block it left. -/
theorem startupFaultsLeaveNoState : Obligations.StartupFaultsLeaveNoState := fun s _ hsize =>
  ⟨congrArg _ (Block.afterInit_missing s.cfg s.draws), congrArg _ (Block.afterInit_oversize s.cfg s.draws hsize),
    fun why _ hes => Block.run_absent why s.cfg s.draws hes⟩

end Sys2Proof.Machine
end
